-- ==== Sys2Proof/Word.lean ====
section
/-!
DEFINITION. The widths of the GFQR core's words (spec/30_encoding.md R70, R71, R76).
-/

namespace Sys2Proof

/-- A command word or a response word: 32 bits, bit 31 the most significant (R70, R76). -/
abbrev Word := BitVec 32

/-- An 8-bit operand, a codeword, a field element, an array element (R71, R110). -/
abbrev Byte := BitVec 8

/-- The 16-bit DATA of a response and the 16-bit IDX of a command (R71, R76). -/
abbrev Half := BitVec 16

end Sys2Proof
end

