-- ==== Sys2Proof/Config.lean ====
section
/-!
DEFINITION. The implementation parameters of the core, under exactly the names of
spec/00_scope.md R9, and the free values: what an array element that nothing has written reads as
(spec/93_implementation_defined.md U1, treatment "any value").
-/

namespace Sys2Proof.Config

/-- The lowest legal version (R9). -/
abbrev VER_MIN : Nat := 1
/-- The highest legal version (R9). -/
abbrev VER_MAX : Nat := 10
/-- Modules per side of a symbol of version `v` (R9). -/
abbrev SIZE (v : Nat) : Nat := 17 + 4 * v
/-- `SIZE 10`, the side of the grids MOD and RSV (R9, R34). -/
abbrev SIZE_MAX : Nat := 57
/-- The reduction polynomial of the field, x^8 + x^4 + x^3 + x^2 + 1 (R9, R110). -/
abbrev GF_POLY : BitVec 9 := 0x11D#9
/-- The number of table-building iterations and the modulus of the exponent sum (R9). -/
abbrev GF_ORDER : Nat := 255
/-- The generator of the format word's BCH code (R9, R191). -/
abbrev BCH_GEN : BitVec 15 := 0x537#15
/-- The format mask constant (R9, R191). -/
abbrev FMT_XOR : BitVec 15 := 0x5412#15
/-- The one mask pattern (R9, R190). -/
abbrev MASK_ID : BitVec 3 := 0#3
/-- The capacity of the codeword buffer in bytes (R9, R33). -/
abbrev CW_MAX : Nat := 512
/-- The least legal count of error-correction codewords (R9). -/
abbrev NEC_MIN : Nat := 1
/-- The greatest legal count of error-correction codewords (R9). -/
abbrev NEC_MAX : Nat := 255
/-- The capacity of the alignment coordinate list (R9, R28). -/
abbrev ALN_MAX : Nat := 7
/-- The constant read from register ID (R9, R22). -/
abbrev ID_VALUE : Half := 0x4751#16

/-- The byte arrays whose contents after reset are unspecified (R231). -/
inductive ByteArrayName where
  | exp | log | gen | rem | cw
  deriving DecidableEq, Repr

/-- The bit grids whose contents after reset are unspecified (R231). -/
inductive GridName where
  | mod | rsv
  deriving DecidableEq, Repr

/-- FREE VALUE. What element `i` of a byte array reads as while nothing has written it since reset
(U1: "any value"). No body that a proof can see; by R64 no command of a run reads one. Log 3. -/
opaque unwrittenByte : ByteArrayName → Nat → Byte

/-- FREE VALUE. What cell `(r, c)` of a grid reads as while nothing has written it since reset
(U1: "any value"). Log 3. -/
opaque unwrittenBit : GridName → Nat → Nat → Bool

end Sys2Proof.Config
end

