-- ==== Sys2Proof/Syntax.lean ====
section
/-!
DEFINITION. The commands of command set 1.0: one constructor per row of spec/opcode_table.json
(spec/30_encoding.md R74), with the operands R73 assembles, and the reasons a word is illegal.
-/

namespace Sys2Proof

/-- The 29 commands (R74). An operand has exactly the width of its field (R71, R73), so every term
is a command some word encodes; whether an operand is in the range a command accepts is checked
when the command executes (R73). -/
inductive Instr where
  /-- NOP (R91) -/
  | nop
  /-- SETVER v (R92) -/
  | setver (v : Byte)
  /-- SETECL e (R93) -/
  | setecl (e : Byte)
  /-- SETALNC c (R94) -/
  | setalnc (c : Byte)
  /-- SETALN k, p (R95) -/
  | setaln (k p : Byte)
  /-- CWCLR (R96) -/
  | cwclr
  /-- CWPUSH b (R97) -/
  | cwpush (b : Byte)
  /-- RDCW idx (R98) -/
  | rdcw (idx : Half)
  /-- RDMOD r, c (R99) -/
  | rdmod (r c : Byte)
  /-- RDRSV r, c (R100) -/
  | rdrsv (r c : Byte)
  /-- RDREG n (R101) -/
  | rdreg (n : Byte)
  /-- CLRERR (R102) -/
  | clrerr
  /-- SRESET (R103) -/
  | sreset
  /-- GFINIT (R116) -/
  | gfinit
  /-- GFMUL a, b (R117) -/
  | gfmul (a b : Byte)
  /-- GFEXP i (R118) -/
  | gfexp (i : Byte)
  /-- GFLOG a (R119) -/
  | gflog (a : Byte)
  /-- RSGEN n (R133) -/
  | rsgen (n : Byte)
  /-- RSCLR (R134) -/
  | rsclr
  /-- RSBYTE b (R136) -/
  | rsbyte (b : Byte)
  /-- RSENC (R137) -/
  | rsenc
  /-- RDGEN j (R138) -/
  | rdgen (j : Byte)
  /-- RDREM j (R139) -/
  | rdrem (j : Byte)
  /-- MBUILD (R150) -/
  | mbuild
  /-- PLACE (R170) -/
  | place
  /-- MASK (R185) -/
  | mask
  /-- BCHENC f (R193) -/
  | bchenc (f : Byte)
  /-- FMTWR (R194) -/
  | fmtwr
  /-- ENCODE n (R205) -/
  | encode (n : Byte)
  deriving DecidableEq, Repr

/-- Why a command word is illegal; either reason is answered with ERR_OPCODE (R211). -/
inductive Illegal where
  /-- OP is not in the opcode map (R75). -/
  | reservedOp
  /-- OP is defined and a bit its format requires to be zero is 1 (R77). -/
  | mustBeZero
  deriving DecidableEq, Repr

end Sys2Proof
end

