-- ==== Sys2Proof/Machine/State.lean ====
section
/-!
DEFINITION. The state of the core as plain data: spec/10_state.md R22 to R35, and the state after
reset, spec/70_reset_and_hazards.md R231.
-/

namespace Sys2Proof.Machine

/-- The error codes (spec/60_exceptions.md R211). Codes 5 to 15 are never produced. -/
inductive ErrCode where
  /-- 0: the command succeeded -/
  | ok
  /-- 1 ERR_OPCODE: the command word is illegal -/
  | opcode
  /-- 2 ERR_ARG: an operand, index or configured coordinate is outside its legal range -/
  | arg
  /-- 3 ERR_SEQ: a prerequisite stage flag is not in the state the command needs -/
  | seq
  /-- 4 ERR_CAP: the codeword buffer would overflow -/
  | cap
  deriving DecidableEq, Repr

/-- The fields of STATUS, register 0 (R24), in bit order. Bit 11 is no field: it always reads 0. -/
structure Status where
  /-- bit 0: EXP and LOG hold the tables of R111 -/
  tblv : Bool
  /-- bit 1: GEN[0..NEC] holds a generator polynomial and REM[0..NEC-1] is defined -/
  genv : Bool
  /-- bit 2: error-correction codewords have been appended to CW -/
  ecv : Bool
  /-- bit 3: VERSION is in 1..10 -/
  verv : Bool
  /-- bit 4: ECLBITS has been written -/
  eclv : Bool
  /-- bit 5: MOD and RSV hold a matrix of side MSIZE -/
  matv : Bool
  /-- bit 6: every free cell has been written by the placer since the last MBUILD -/
  placed : Bool
  /-- bit 7: the mask has been applied an odd number of times (R26) -/
  masked : Bool
  /-- bit 8: both format strips have been written since the last MBUILD -/
  fmtd : Bool
  /-- bit 9: the last PLACE visited more free cells than there were codeword bits -/
  plshort : Bool
  /-- bit 10: the last PLACE had more codeword bits than free cells -/
  plover : Bool
  /-- bits 15:12: the sticky first error code (R25) -/
  err : ErrCode
  deriving DecidableEq, Repr

/-- A memory of the core: the elements written since reset, as (index, element) pairs with
strictly rising indexes. An index that is not listed has not been written. -/
abbrev Cells (α : Type) : Type := List (Nat × α)

/-- A byte array (EXP, LOG, GEN, REM, CW): a list of `Host.Cell`. -/
abbrev Memory : Type := Cells Byte

/-- A grid of bits (MOD, RSV): cell `(r, c)` has index `256 * r + c` (log 6). -/
abbrev Grid : Type := Cells Bool

/-- The canonical form of a memory: indexes strictly rising, so that equal memories are equal
data. -/
abbrev Memory.wf {α : Type} (m : Cells α) : Prop := m.Pairwise fun p q => p.1 < q.1

/-- What the host does next: it presents a command word (R20, R82) or asserts `rst` (R230). -/
inductive HostEvent where
  /-- a command word is presented on the command port -/
  | command (w : Word)
  /-- `rst` is asserted while the core is idle -/
  | reset
  /-- `rst` is asserted while the command `w` is in progress: `w` is abandoned without a response -/
  | resetDuring (w : Word)
  deriving DecidableEq, Repr

/-- The state of the core and, last, the host's side of its two ports. -/
structure State where
  /-- STATUS, register 0 (R24) -/
  status : Status
  /-- VERSION, register 1: 0 until a SETVER succeeds (R23) -/
  version : BitVec 4
  /-- ECLBITS, register 2 -/
  eclbits : BitVec 2
  /-- ALNCNT, register 3: the number of valid entries at the front of ALIGN -/
  alncnt : BitVec 3
  /-- CWLEN, register 4: the number of codewords now in CW -/
  cwlen : BitVec 10
  /-- NDATA, register 5: how many of those were data when RSENC last ran -/
  ndata : BitVec 10
  /-- NEC, register 6: the degree of the generator in GEN and the length of REM -/
  nec : BitVec 8
  /-- MSIZE, register 7: the side of the matrix now in MOD and RSV -/
  msize : BitVec 6
  /-- FMT, register 8: the last format word FMTWR wrote -/
  fmt : BitVec 15
  /-- PLCELLS, register 9: the number of free cells the last PLACE visited -/
  plcells : BitVec 12
  /-- ALIGN[0..6], registers 16 to 22 (R28) -/
  align : Vector Byte 7
  /-- EXP[0..254] (R29) -/
  exp : Memory
  /-- LOG[1..255] (R30) -/
  log : Memory
  /-- GEN[0..255] (R31) -/
  gen : Memory
  /-- REM[0..254] (R32) -/
  rem : Memory
  /-- CW[0..511], the codeword buffer (R33) -/
  cw : Memory
  /-- MOD, the module grid: true is dark (R34, R16) -/
  mod : Grid
  /-- RSV, the reserved grid: true is reserved (R35, R16) -/
  rsv : Grid
  /-- the model's own: what the host does next, soonest first (R21, R82; log 1) -/
  inputs : List HostEvent
  /-- the model's own: the responses delivered so far, oldest first (R82; log 2) -/
  responses : List Word
  deriving DecidableEq, Repr

/-- A reason for which the machine stops. There is none: an error of a command is a response and a
latched code, and the core goes on (R210, R212); so no meaning raises a fault. -/
inductive Fault where
  deriving DecidableEq, Repr

/-- A reason for which the model gives an instruction no meaning. -/
inductive Refusal where
  /-- Raised by an arm of `exec` whose instruction has no meaning yet, and by nothing else; safe.
  No arm of this model raises it. -/
  | notModelled (mnemonic : String)
  deriving DecidableEq, Repr

/-- STATUS after reset: every field 0 (R231). -/
def Status.reset : Status where
  tblv := false
  genv := false
  ecv := false
  verv := false
  eclv := false
  matv := false
  placed := false
  masked := false
  fmtd := false
  plshort := false
  plover := false
  err := .ok

/-- The state after reset (R231): scalar registers 0, ALIGN all 0, nothing written in any of the
arrays whose contents are unspecified; no event to come and no response delivered (log 1, log 2). -/
def State.reset : State where
  status := Status.reset
  version := 0#4
  eclbits := 0#2
  alncnt := 0#3
  cwlen := 0#10
  ndata := 0#10
  nec := 0#8
  msize := 0#6
  fmt := 0#15
  plcells := 0#12
  align := Vector.replicate 7 0#8
  exp := []
  log := []
  gen := []
  rem := []
  cw := []
  mod := []
  rsv := []
  inputs := []
  responses := []

end Sys2Proof.Machine
end

