-- ==== Sys2Proof/Machine/Ops.lean ====
section
/-!
DEFINITION. The named operations: reading and writing the core's memories, the response
(spec/30_encoding.md R76), the ONE operation that raises an error (spec/60_exceptions.md R212) and
reset (spec/70_reset_and_hazards.md R230, R231).
-/

namespace Sys2Proof.Machine

/-! ### Memories -/

/-- The element at index `a`, if it has been written since reset. -/
def readCell {α : Type} (m : Cells α) (a : Nat) : Option α :=
  match m with
  | [] => none
  | (k, v) :: rest => if a = k then some v else readCell rest a

/-- Write the element at index `a`, keeping the indexes strictly rising. -/
def writeCell {α : Type} (m : Cells α) (a : Nat) (v : α) : Cells α :=
  match m with
  | [] => [(a, v)]
  | (k, w) :: rest =>
    if a < k then (a, v) :: (k, w) :: rest
    else if a = k then (a, v) :: rest
    else (k, w) :: writeCell rest a v

/-- Write consecutive elements from index `a` on. -/
def writeList {α : Type} (m : Cells α) (a : Nat) (vs : List α) : Cells α :=
  match vs with
  | [] => m
  | v :: rest => writeList (writeCell m a v) (a + 1) rest

/-- The index of grid cell `(r, c)` (log 6). -/
def cellIndex (r c : Nat) : Nat := 256 * r + c

/-- Read one cell of a grid. -/
def readGrid (g : Grid) (r c : Nat) : Option Bool := readCell g (cellIndex r c)

/-- Write one cell of a grid. -/
def writeGrid (g : Grid) (r c : Nat) (v : Bool) : Grid := writeCell g (cellIndex r c) v

/-- The cells of the `h` by `w` rectangle whose top-left cell is `(r0, c0)`, row by row. -/
def block (r0 c0 h w : Nat) : List (Nat × Nat) :=
  (List.range h).flatMap fun i => (List.range w).map fun j => (r0 + i, c0 + j)

/-! ### Responses, errors and reset -/

/-- The number of an error code (R211). -/
def ErrCode.code : ErrCode → BitVec 4
  | .ok => 0#4
  | .opcode => 1#4
  | .arg => 2#4
  | .seq => 3#4
  | .cap => 4#4

/-- The response word: ERR in 31:28, zeros in 27:16, DATA in 15:0 (R76). -/
def responseWord (e : ErrCode) (d : Half) : Word := e.code ++ 0#12 ++ d

/-- Deliver a response word to the host (R82). -/
def State.emit (s : State) (w : Word) : State := { s with responses := s.responses ++ [w] }

/-- The sticky first-error latch STATUS.ERR: `e` is kept only if no error is held (R25, R214). -/
def State.latch (s : State) (e : ErrCode) : State :=
  { s with status := { s.status with err := if s.status.err = .ok then e else s.status.err } }

/-- `respond(d)`: the command ends successfully with response data `d` (R13, R76). -/
def respond (d : Half) (s : State) : Host.Outcome State Fault Refusal :=
  .next (s.emit (responseWord .ok d))

/-- `raise e`, the core's one way of taking an exception: nothing is written but STATUS.ERR, and
the response carries the code with DATA = 0 (R212, R76). There is no handler, no saved state and
no return (R210, R217); CLRERR re-arms the latch. -/
def raise (e : ErrCode) (s : State) : Host.Outcome State Fault Refusal :=
  .next ((s.latch e).emit (responseWord e 0#16))

/-- Reset, by `rst` or by SRESET: every scalar register and array as R231 says (R103, R230). What
the host still means to do and what it has received are not state of the core (R21) and stay. -/
def State.restart (s : State) : State :=
  { State.reset with inputs := s.inputs, responses := s.responses }

/-- The host's next event has been taken. -/
def State.dequeue (s : State) : State := { s with inputs := s.inputs.tail }

end Sys2Proof.Machine
end

