-- ==== Sys2Proof/Machine/Flags.lean ====
section
/-!
DEFINITION. STATUS as the word register 0 reads (spec/10_state.md R24), and what each command that
writes stage flags does to them (R24, R26). The core has no arithmetic condition codes (R38).
-/

namespace Sys2Proof.Machine

/-- STATUS as a 16-bit word, bit 11 always 0 (R24). -/
def Status.word (t : Status) : Half :=
  t.err.code ++ 0#1 ++ BitVec.ofBool t.plover ++ BitVec.ofBool t.plshort ++ BitVec.ofBool t.fmtd ++
    BitVec.ofBool t.masked ++ BitVec.ofBool t.placed ++ BitVec.ofBool t.matv ++
    BitVec.ofBool t.eclv ++ BitVec.ofBool t.verv ++ BitVec.ofBool t.ecv ++ BitVec.ofBool t.genv ++
    BitVec.ofBool t.tblv

/-- MBUILD: MATV set; PLACED, MASKED, FMTD, PLSHORT, PLOVER cleared (R26, R150). -/
def Status.afterMbuild (t : Status) : Status :=
  { t with matv := true, placed := false, masked := false, fmtd := false, plshort := false,
           plover := false }

/-- PLACE over `k` free cells with `nbits` codeword bits: PLACED set, MASKED cleared, the two
mismatch flags written (R26, R170). -/
def Status.afterPlace (t : Status) (k nbits : Nat) : Status :=
  { t with placed := true, masked := false, plshort := decide (k > nbits),
           plover := decide (k < nbits) }

/-- MASK: MASKED toggled (R26, R185). -/
def Status.afterMask (t : Status) : Status := { t with masked := !t.masked }

/-- FMTWR: FMTD set (R26, R194). -/
def Status.afterFmtwr (t : Status) : Status := { t with fmtd := true }

end Sys2Proof.Machine
end

