-- ==== Sys2Proof/Machine/Operands.lean ====
section
/-!
DEFINITION. How a command reads an element of each index space (spec/20_memory.md R51, R52), the
bit order of the codeword stream (R55), and the widening of a value to the DATA field (R57).
An element that nothing has written reads as a free value (spec/93_implementation_defined.md U1).
-/

namespace Sys2Proof.Machine

/-- EXP[i] (R29). -/
def readExp (s : State) (i : Nat) : Byte := (readCell s.exp i).getD (Config.unwrittenByte .exp i)

/-- LOG[a] (R30). -/
def readLog (s : State) (a : Nat) : Byte := (readCell s.log a).getD (Config.unwrittenByte .log a)

/-- GEN[j] (R31). -/
def readGen (s : State) (j : Nat) : Byte := (readCell s.gen j).getD (Config.unwrittenByte .gen j)

/-- REM[j] (R32). -/
def readRem (s : State) (j : Nat) : Byte := (readCell s.rem j).getD (Config.unwrittenByte .rem j)

/-- CW[i] (R33). -/
def readCw (s : State) (i : Nat) : Byte := (readCell s.cw i).getD (Config.unwrittenByte .cw i)

/-- MOD[r][c] of a module grid (R34). -/
def readMod (g : Grid) (r c : Nat) : Bool := (readGrid g r c).getD (Config.unwrittenBit .mod r c)

/-- RSV[r][c] of a reserved grid (R35). -/
def readRsv (g : Grid) (r c : Nat) : Bool := (readGrid g r c).getD (Config.unwrittenBit .rsv r c)

/-- `cwbit(k)`: bit `7 - (k mod 8)` of `CW[k div 8]`, most significant bit first (R53, R55). -/
def cwbit (s : State) (k : Nat) : Bool := (readCw s (k / 8)).getLsbD (7 - k % 8)

/-- The number of bits in the codeword stream. -/
def cwBits (s : State) : Nat := 8 * s.cwlen.toNat

/-- The coordinates in use, ALIGN[0..ALNCNT-1] (R28). -/
def alignList (s : State) : List Nat := (s.align.toList.take s.alncnt.toNat).map BitVec.toNat

/-- A byte in the DATA field (R57). -/
def byteData (b : Byte) : Half := b.setWidth 16

/-- A module or reserved bit in the DATA field (R57). -/
def bitData (b : Bool) : Half := (BitVec.ofBool b).setWidth 16

/-- Register number `n` as RDREG reads it, `none` where there is no register (R22, R101). -/
def readReg (s : State) (n : Nat) : Option Half :=
  match n with
  | 0 => some s.status.word
  | 1 => some (s.version.setWidth 16)
  | 2 => some (s.eclbits.setWidth 16)
  | 3 => some (s.alncnt.setWidth 16)
  | 4 => some (s.cwlen.setWidth 16)
  | 5 => some (s.ndata.setWidth 16)
  | 6 => some (s.nec.setWidth 16)
  | 7 => some (s.msize.setWidth 16)
  | 8 => some (s.fmt.setWidth 16)
  | 9 => some (s.plcells.setWidth 16)
  | 10 => some Config.ID_VALUE
  | n => if 16 ≤ n then (s.align[n - 16]?).map byteData else none

end Sys2Proof.Machine
end

