-- ==== Sys2Proof/Machine/HostAccess.lean ====
section
/-!
DEFINITION. The host access commands: spec/40_host_access.md R91 to R103.
-/

namespace Sys2Proof.Machine

/-- NOP (R91). -/
def execNop (s : State) : Host.Outcome State Fault Refusal := respond 0#16 s

/-- SETVER v (R92): a matrix already built keeps its size. -/
def execSetver (v : Byte) (s : State) : Host.Outcome State Fault Refusal :=
  if v.toNat < Config.VER_MIN ∨ Config.VER_MAX < v.toNat then raise .arg s
  else respond 0#16 { s with version := v.setWidth 4, status := { s.status with verv := true } }

/-- SETECL e (R93). -/
def execSetecl (e : Byte) (s : State) : Host.Outcome State Fault Refusal :=
  if 3 < e.toNat then raise .arg s
  else respond 0#16 { s with eclbits := e.setWidth 2, status := { s.status with eclv := true } }

/-- SETALNC c (R94): the entries are checked by MBUILD, not here. -/
def execSetalnc (c : Byte) (s : State) : Host.Outcome State Fault Refusal :=
  if Config.ALN_MAX < c.toNat then raise .arg s
  else respond 0#16 { s with alncnt := c.setWidth 3 }

/-- SETALN k, p (R95): any byte is stored, at or above ALNCNT too. -/
def execSetaln (k p : Byte) (s : State) : Host.Outcome State Fault Refusal :=
  if 6 < k.toNat then raise .arg s
  else respond 0#16 { s with align := s.align.setIfInBounds k.toNat p }

/-- CWCLR (R96). -/
def execCwclr (s : State) : Host.Outcome State Fault Refusal :=
  respond 0#16
    { s with cwlen := 0#10, ndata := 0#10, status := { s.status with ecv := false } }

/-- CWPUSH b (R97). -/
def execCwpush (b : Byte) (s : State) : Host.Outcome State Fault Refusal :=
  if s.status.ecv then raise .seq s
  else if s.cwlen.toNat = Config.CW_MAX then raise .cap s
  else respond 0#16 { s with cw := writeCell s.cw s.cwlen.toNat b, cwlen := s.cwlen + 1#10 }

/-- RDCW idx (R98). -/
def execRdcw (idx : Half) (s : State) : Host.Outcome State Fault Refusal :=
  if s.cwlen.toNat ≤ idx.toNat then raise .arg s
  else respond (byteData (readCw s idx.toNat)) s

/-- RDMOD r, c (R99). -/
def execRdmod (r c : Byte) (s : State) : Host.Outcome State Fault Refusal :=
  if s.status.matv = false then raise .seq s
  else if s.msize.toNat ≤ r.toNat ∨ s.msize.toNat ≤ c.toNat then raise .arg s
  else respond (bitData (readMod s.mod r.toNat c.toNat)) s

/-- RDRSV r, c (R100). -/
def execRdrsv (r c : Byte) (s : State) : Host.Outcome State Fault Refusal :=
  if s.status.matv = false then raise .seq s
  else if s.msize.toNat ≤ r.toNat ∨ s.msize.toNat ≤ c.toNat then raise .arg s
  else respond (bitData (readRsv s.rsv r.toNat c.toNat)) s

/-- RDREG n (R101): never ERR_SEQ; register 0 is STATUS as it was before the command. -/
def execRdreg (n : Byte) (s : State) : Host.Outcome State Fault Refusal :=
  match readReg s n.toNat with
  | none => raise .arg s
  | some d => respond d s

/-- CLRERR (R102): it clears STATUS.ERR and nothing else. -/
def execClrerr (s : State) : Host.Outcome State Fault Refusal :=
  respond 0#16 { s with status := { s.status with err := .ok } }

/-- SRESET (R103): the hardware reset as a command; the response follows the reset. -/
def execSreset (s : State) : Host.Outcome State Fault Refusal := respond 0#16 s.restart

end Sys2Proof.Machine
end

