-- ==== Sys2Proof/Machine/FormatInfo.lean ====
section
/-!
DEFINITION. The format-information encoder: spec/46_format.md R190 to R199.
-/

namespace Sys2Proof.Machine

/-- One step of the BCH divider, for bit `i` of the register (R191, R192). -/
def bchStep (rem : BitVec 15) (i : Nat) : BitVec 15 :=
  if rem.getLsbD i then rem ^^^ (Config.BCH_GEN <<< (i - 10)) else rem

/-- The divider's five steps, from position 14 down to 10 (R191, R192). -/
def bchReduce (w : BitVec 15) : BitVec 15 := [14, 13, 12, 11, 10].foldl bchStep w

/-- `bch15(f)`: field and remainder, exclusive-ored with the fixed mask (R191). -/
def bch15 (f : BitVec 5) : BitVec 15 :=
  (f ++ (bchReduce (f ++ 0#10)).setWidth 10) ^^^ Config.FMT_XOR

/-- The 5-bit field `ECLBITS << 3 | MASK_ID` (R190). -/
def formatField (ecl : BitVec 2) : BitVec 5 := ecl ++ Config.MASK_ID

/-- The horizontal strip `H`, in row 8 (R195). -/
def stripH (size : Nat) : List (Nat × Nat) :=
  [0, 1, 2, 3, 4, 5, 7, 8, size - 8, size - 7, size - 6, size - 5, size - 4, size - 3,
    size - 2].map fun c => (8, c)

/-- The vertical strip `V`, in column 8 (R196). -/
def stripV (size : Nat) : List (Nat × Nat) :=
  [size - 1, size - 2, size - 3, size - 4, size - 5, size - 6, size - 7, 8, 7, 5, 4, 3, 2, 1,
    0].map fun r => (r, 8)

/-- Write the word `w` into a strip, bit 14 first (R194). -/
def writeStrip (w : BitVec 15) (strip : List (Nat × Nat)) (g : Grid) : Grid :=
  strip.zipIdx.foldl (fun g p => writeGrid g p.1.1 p.1.2 (w.getLsbD (14 - p.2))) g

/-- The effect of FMTWR (R194). -/
def fmtwrEffect (s : State) : State :=
  let w := bch15 (formatField s.eclbits)
  let size := s.msize.toNat
  { s with
    fmt := w
    mod := writeStrip w (stripV size) (writeStrip w (stripH size) s.mod)
    status := s.status.afterFmtwr }

/-- BCHENC f (R193): a pure function of its operand. -/
def execBchenc (f : Byte) (s : State) : Host.Outcome State Fault Refusal :=
  if 31 < f.toNat then raise .arg s
  else respond ((bch15 (f.setWidth 5)).setWidth 16) s

/-- FMTWR (R194). -/
def execFmtwr (s : State) : Host.Outcome State Fault Refusal :=
  if s.status.matv = false then raise .seq s
  else if s.status.eclv = false then raise .seq s
  else respond 0#16 (fmtwrEffect s)

end Sys2Proof.Machine
end

