-- ==== Sys2Proof/Machine/MaskApplicator.lean ====
section
/-!
DEFINITION. The mask applicator: spec/45_mask.md R185 to R187.
-/

namespace Sys2Proof.Machine

/-- `mask0(r, c)`, the one mask pattern (R186). -/
def mask0 (r c : Nat) : Bool := (r + c) % 2 == 0

/-- One cell of MASK: a free cell under the pattern is flipped (R185). -/
def maskCell (rsv mod : Grid) (rc : Nat × Nat) : Grid :=
  if !readRsv rsv rc.1 rc.2 && mask0 rc.1 rc.2 then
    writeGrid mod rc.1 rc.2 (!readMod mod rc.1 rc.2)
  else mod

/-- The effect of MASK (R185). -/
def maskEffect (s : State) : State :=
  { s with
    mod := (block 0 0 s.msize.toNat s.msize.toNat).foldl (maskCell s.rsv) s.mod
    status := s.status.afterMask }

/-- MASK (R185). -/
def execMask (s : State) : Host.Outcome State Fault Refusal :=
  if s.status.matv = false then raise .seq s
  else respond 0#16 (maskEffect s)

end Sys2Proof.Machine
end

