-- ==== Sys2Proof/Machine/MatrixBuilder.lean ====
section
/-!
DEFINITION. The matrix builder: spec/43_matrix.md R150 to R162.
-/

namespace Sys2Proof.Machine

/-- The two grids while MBUILD works on them. -/
structure Grids where
  mod : Grid
  rsv : Grid
  deriving DecidableEq, Repr

/-- Write a module and mark its cell reserved. -/
def stamp (g : Grids) (r c : Nat) (dark : Bool) : Grids :=
  { mod := writeGrid g.mod r c dark, rsv := writeGrid g.rsv r c true }

/-- Mark a cell reserved without writing its module (R159). -/
def reserve (g : Grids) (r c : Nat) : Grids := { g with rsv := writeGrid g.rsv r c true }

/-- `allocate()`: every cell light and free (R152). -/
def allocate (size : Nat) (g : Grids) : Grids :=
  (block 0 0 size size).foldl
    (fun g rc => { mod := writeGrid g.mod rc.1 rc.2 false, rsv := writeGrid g.rsv rc.1 rc.2 false })
    g

/-- A finder pattern is dark on its border and on its 3 by 3 core (R153). -/
def finderDark (dr dc : Nat) : Bool :=
  dr == 0 || dr == 6 || dc == 0 || dc == 6 ||
    (Nat.ble 2 dr && Nat.ble dr 4 && Nat.ble 2 dc && Nat.ble dc 4)

/-- The cells of the separator around the finder at `(r0, c0)` that lie inside the grid: offsets
-1..7 in each direction, written here as 0..8 less 1, at least one of them at an end (R154). -/
def separatorCells (size r0 c0 : Nat) : List (Nat × Nat) :=
  ((block 0 0 9 9).filter fun d =>
      (d.1 == 0 || d.1 == 8 || d.2 == 0 || d.2 == 8) && Nat.ble 1 (r0 + d.1) &&
        Nat.ble 1 (c0 + d.2) && Nat.blt (r0 + d.1 - 1) size && Nat.blt (c0 + d.2 - 1) size).map
    fun d => (r0 + d.1 - 1, c0 + d.2 - 1)

/-- `finder(r0, c0)` with its separator (R153, R154). -/
def finder (size r0 c0 : Nat) (g : Grids) : Grids :=
  (separatorCells size r0 c0).foldl (fun g rc => stamp g rc.1 rc.2 false)
    ((block 0 0 7 7).foldl (fun g d => stamp g (r0 + d.1) (c0 + d.2) (finderDark d.1 d.2)) g)

/-- `timing()`: row 6 and column 6, indexes 8..size-9, dark when the index is even (R155). -/
def timing (size : Nat) (g : Grids) : Grids :=
  ((List.range (size - 16)).map (· + 8)).foldl
    (fun g i => stamp (stamp g 6 i (i % 2 == 0)) i 6 (i % 2 == 0)) g

/-- The 25 cells of the footprint centred on `(pr, pc)` (R156). -/
def footprint (pr pc : Nat) : List (Nat × Nat) := block (pr - 2) (pc - 2) 5 5

/-- An alignment pattern is dark on its border and at its centre; offsets -2..2 are written 0..4
(R157). -/
def alignDark (i j : Nat) : Bool :=
  i == 0 || i == 4 || j == 0 || j == 4 || (i == 2 && j == 2)

/-- `align(pr, pc)` (R157). -/
def alignPattern (pr pc : Nat) (g : Grids) : Grids :=
  (block 0 0 5 5).foldl
    (fun g d => stamp g (pr - 2 + d.1) (pc - 2 + d.2) (alignDark d.1 d.2)) g

/-- One placement of `alignments()`: skipped when the footprint meets a cell reserved by then
(R156). Nothing else is spared: a pair such as (10, size-3) is stamped over format cells, its dark
corner over (8, size-1), which R198 has light in every symbol. DESIGN CHOICE (log 11): R156 and
R157 are followed. -/
def tryAlign (g : Grids) (p : Nat × Nat) : Grids :=
  if (footprint p.1 p.2).any fun rc => readRsv g.rsv rc.1 rc.2 then g
  else alignPattern p.1 p.2 g

/-- `alignments()` over the pairs of the list, row coordinate outermost, list order (R156). -/
def alignments (list : List Nat) (g : Grids) : Grids :=
  (list.flatMap fun a => list.map fun b => (a, b)).foldl tryAlign g

/-- `dark_module()` (R158). -/
def darkModule (size : Nat) (g : Grids) : Grids := stamp g (size - 8) 8 true

/-- The format cells, in the order of R159's three loops. -/
def formatCells (size : Nat) : List (Nat × Nat) :=
  ((List.range 9).flatMap fun i => [(8, i), (i, 8)]) ++
    (List.range 8).map (fun i => (8, size - 8 + i)) ++
    (List.range 7).map fun i => (size - 7 + i, 8)

/-- `reserve_format()` (R159). -/
def reserveFormat (size : Nat) (g : Grids) : Grids :=
  (formatCells size).foldl (fun g rc => reserve g rc.1 rc.2) g

/-- The builder's sub-steps in their order (R150, R151). -/
def buildMatrix (version : Nat) (list : List Nat) (g : Grids) : Grids :=
  let size := Config.SIZE version
  let g := finder size (size - 7) 0 (finder size 0 (size - 7) (finder size 0 0 (allocate size g)))
  let g := timing size g
  let g := if 2 ≤ version then alignments list g else g
  reserveFormat size (darkModule size g)

/-- An alignment coordinate in use would put part of a footprint outside the grid; never at
version 1, where the list is not used (R150, R206). -/
def alignOutOfRange (s : State) : Bool :=
  Nat.ble 2 s.version.toNat &&
    (alignList s).any fun p => Nat.blt p 2 || Nat.blt (Config.SIZE s.version.toNat - 3) p

/-- The effect of MBUILD (R150). -/
def mbuildEffect (s : State) : State :=
  let g := buildMatrix s.version.toNat (alignList s) { mod := s.mod, rsv := s.rsv }
  { s with
    mod := g.mod
    rsv := g.rsv
    msize := BitVec.ofNat 6 (Config.SIZE s.version.toNat)
    status := s.status.afterMbuild
    plcells := 0#12 }

/-- MBUILD (R150). -/
def execMbuild (s : State) : Host.Outcome State Fault Refusal :=
  if s.status.verv = false then raise .seq s
  else if alignOutOfRange s then raise .arg s
  else respond 0#16 (mbuildEffect s)

end Sys2Proof.Machine
end

