-- ==== Sys2Proof/Machine/Placement.lean ====
section
/-!
DEFINITION. The data placement engine: spec/44_place.md R170 to R179.
-/

namespace Sys2Proof.Machine

/-- The traversal state `(right, vert, j, up, k)` of R172, with the module grid being filled and
the report that the traversal is done. -/
structure Traversal where
  /-- the right column of the current lane -/
  right : Nat
  /-- how many rows of the lane have been finished -/
  vert : Nat
  /-- the sub-column: 0 the right one, 1 the left one -/
  j : Nat
  /-- the lane is walked upwards -/
  up : Bool
  /-- free cells visited so far, and the index of the next codeword bit -/
  k : Nat
  mod : Grid
  done : Bool
  deriving DecidableEq, Repr

/-- The initial state: bottom-right corner, upwards (R172). -/
def Traversal.start (size : Nat) (mod : Grid) : Traversal :=
  { right := size - 1, vert := 0, j := 0, up := true, k := 0, mod := mod, done := false }

/-- The column visited (R173). -/
def Traversal.col (t : Traversal) : Nat := t.right - t.j

/-- The row visited (R173). -/
def Traversal.row (size : Nat) (t : Traversal) : Nat :=
  if t.up then size - 1 - t.vert else t.vert

/-- The right column of the next lane: column 6 belongs to no lane (R171). -/
def nextRight (right : Nat) : Nat := if right - 2 = 6 then 5 else right - 2

/-- `advance()` (R174). -/
def Traversal.advance (size : Nat) (t : Traversal) : Traversal :=
  if t.j = 0 then { t with j := 1 }
  else if t.vert + 1 = size then
    if t.right = 1 then { t with j := 0, vert := 0, up := !t.up, done := true }
    else { t with j := 0, vert := 0, up := !t.up, right := nextRight t.right }
  else { t with j := 0, vert := t.vert + 1 }

/-- The bit the `k`-th free cell receives: the codeword bit, or 0 when the bits have run out
(R175, R176). -/
def placedBit (s : State) (k : Nat) : Bool := if k < cwBits s then cwbit s k else false

/-- `place_step()`: a free cell takes the next bit, a reserved cell is passed over (R173). -/
def placeStep (s : State) (size : Nat) (t : Traversal) : Traversal :=
  let r := t.row size
  let c := t.col
  (if readRsv s.rsv r c then t
   else { t with mod := writeGrid t.mod r c (placedBit s t.k), k := t.k + 1 }).advance size

/-- `repeat place_step() until it reports done`, at most `fuel` times. -/
def placeRun (s : State) (size fuel : Nat) (t : Traversal) : Traversal :=
  match fuel with
  | 0 => t
  | fuel + 1 => if t.done then t else placeRun s size fuel (placeStep s size t)

/-- The traversal of the matrix that MOD and RSV hold. The machine makes exactly
`size * (size - 1)` steps (R174); that count bounds the loop (log 7). -/
def traverse (s : State) : Traversal :=
  let size := s.msize.toNat
  placeRun s size (size * (size - 1)) (Traversal.start size s.mod)

/-- The effect of PLACE (R170). -/
def placeEffect (s : State) : State :=
  let t := traverse s
  { s with
    mod := t.mod
    plcells := BitVec.ofNat 12 t.k
    status := s.status.afterPlace t.k (cwBits s) }

/-- PLACE (R170). -/
def execPlace (s : State) : Host.Outcome State Fault Refusal :=
  if s.status.matv = false then raise .seq s
  else respond 0#16 (placeEffect s)

end Sys2Proof.Machine
end

