-- ==== Sys2Proof/Machine/Galois.lean ====
section
/-!
DEFINITION. The Galois-field engine: spec/41_gf.md R110 to R120.
-/

namespace Sys2Proof.Machine

/-- One doubling with conditional reduction, on the builder's 9-bit value (R111). -/
def gfDouble (x : BitVec 9) : BitVec 9 :=
  if (x <<< 1).getLsbD 8 then (x <<< 1) ^^^ Config.GF_POLY else x <<< 1

/-- `n` iterations of the table builder from iteration `i` on, `x` being the current value: each
records the value and then doubles it (R111). -/
def buildTables (n i : Nat) (x : BitVec 9) (exp log : Memory) : Memory × Memory :=
  match n with
  | 0 => (exp, log)
  | n + 1 =>
    buildTables n (i + 1) (gfDouble x) (writeCell exp i (x.setWidth 8))
      (writeCell log x.toNat (BitVec.ofNat 8 i))

/-- `gfmul(a, b)`, multiplication by table lookup (R114). -/
def gfmul (s : State) (a b : Byte) : Byte :=
  if a = 0#8 ∨ b = 0#8 then 0#8
  else readExp s (((readLog s a.toNat).toNat + (readLog s b.toNat).toNat) % Config.GF_ORDER)

/-- The effect of GFINIT (R116). -/
def gfinitEffect (s : State) : State :=
  let t := buildTables Config.GF_ORDER 0 1#9 s.exp s.log
  { s with exp := t.1, log := t.2, status := { s.status with tblv := true } }

/-- GFINIT (R116). -/
def execGfinit (s : State) : Host.Outcome State Fault Refusal := respond 0#16 (gfinitEffect s)

/-- GFMUL a, b (R117). -/
def execGfmul (a b : Byte) (s : State) : Host.Outcome State Fault Refusal :=
  if s.status.tblv = false then raise .seq s
  else respond (byteData (gfmul s a b)) s

/-- GFEXP i (R118): the operand is not reduced mod 255. -/
def execGfexp (i : Byte) (s : State) : Host.Outcome State Fault Refusal :=
  if s.status.tblv = false then raise .seq s
  else if i.toNat = 255 then raise .arg s
  else respond (byteData (readExp s i.toNat)) s

/-- GFLOG a (R119): zero has no logarithm. -/
def execGflog (a : Byte) (s : State) : Host.Outcome State Fault Refusal :=
  if s.status.tblv = false then raise .seq s
  else if a = 0#8 then raise .arg s
  else respond (byteData (readLog s a.toNat)) s

end Sys2Proof.Machine
end

