-- ==== Sys2Proof/Machine/ReedSolomon.lean ====
section
/-!
DEFINITION. The Reed-Solomon encoder: spec/42_rs.md R130 to R141. One block, whatever its length
(R141).
-/

namespace Sys2Proof.Machine

/-- One step of the generator builder: the array `g`, highest power first, times the factor
`x ^ root` (R131). Position `j` of the result is `g[j] ^ gfmul(g[j-1], root)`. -/
def genStep (s : State) (root : Byte) (g : List Byte) : List Byte :=
  List.zipWith (· ^^^ ·) (g ++ [0#8]) (0#8 :: g.map fun c => gfmul s c root)

/-- The generator of degree `n`, the product of the factors `x ^ EXP[i]`, `i < n`, built from the
polynomial 1 in the order of R131. -/
def genArray (s : State) (n : Nat) : List Byte :=
  (List.range n).foldl (fun g i => genStep s (readExp s i) g) [1#8]

/-- `for j in 0..n-1: REM[j] <- 0` (R133, R134, R137). -/
def clearRem (n : Nat) (s : State) : State :=
  { s with rem := writeList s.rem 0 (List.replicate n 0#8) }

/-- The new slot `j` of the remainder register of length `n` after one division step with the
leading byte `lead` (R135). -/
def rsSlot (s : State) (n : Nat) (lead : Byte) (j : Nat) : Byte :=
  (if j + 1 < n then readRem s (j + 1) else 0#8) ^^^ gfmul s (readGen s (j + 1)) lead

/-- `rs_step(b)`: all slots are computed from the old register (R135). -/
def rsStep (b : Byte) (s : State) : State :=
  let n := s.nec.toNat
  let lead := readRem s 0 ^^^ b
  { s with rem := writeList s.rem 0 ((List.range n).map (rsSlot s n lead)) }

/-- The effect of RSGEN n (R133). -/
def rsgenEffect (n : Byte) (s : State) : State :=
  let t := clearRem n.toNat { s with gen := writeList s.gen 0 (genArray s n.toNat), nec := n }
  { t with status := { t.status with genv := true } }

/-- The effect of RSENC (R137): clear the register, divide CW[0..CWLEN-1], append the remainder. -/
def rsencEffect (s : State) : State :=
  let m := s.cwlen.toNat
  let n := s.nec.toNat
  let t := (List.range m).foldl (fun t k => rsStep (readCw s k) t) (clearRem n s)
  { t with
    cw := writeList t.cw m ((List.range n).map (readRem t))
    ndata := s.cwlen
    cwlen := s.cwlen + s.nec.setWidth 10
    status := { t.status with ecv := true } }

/-- RSGEN n (R133). -/
def execRsgen (n : Byte) (s : State) : Host.Outcome State Fault Refusal :=
  if s.status.tblv = false then raise .seq s
  else if n = 0#8 then raise .arg s
  else respond 0#16 (rsgenEffect n s)

/-- RSCLR (R134). -/
def execRsclr (s : State) : Host.Outcome State Fault Refusal :=
  if s.status.genv = false then raise .seq s
  else respond 0#16 (clearRem s.nec.toNat s)

/-- RSBYTE b (R136). -/
def execRsbyte (b : Byte) (s : State) : Host.Outcome State Fault Refusal :=
  if s.status.genv = false then raise .seq s
  else respond 0#16 (rsStep b s)

/-- RSENC (R137). -/
def execRsenc (s : State) : Host.Outcome State Fault Refusal :=
  if s.status.genv = false then raise .seq s
  else if s.status.ecv then raise .seq s
  else if Config.CW_MAX < s.cwlen.toNat + s.nec.toNat then raise .cap s
  else respond 0#16 (rsencEffect s)

/-- RDGEN j (R138). -/
def execRdgen (j : Byte) (s : State) : Host.Outcome State Fault Refusal :=
  if s.status.genv = false then raise .seq s
  else if s.nec.toNat < j.toNat then raise .arg s
  else respond (byteData (readGen s j.toNat)) s

/-- RDREM j (R139). -/
def execRdrem (j : Byte) (s : State) : Host.Outcome State Fault Refusal :=
  if s.status.genv = false then raise .seq s
  else if s.nec.toNat ≤ j.toNat then raise .arg s
  else respond (byteData (readRem s j.toNat)) s

end Sys2Proof.Machine
end

