-- ==== Sys2Proof/Machine/Pipeline.lean ====
section
/-!
DEFINITION. The whole-pipeline command ENCODE: spec/47_encode.md R205 to R208.
-/

namespace Sys2Proof.Machine

/-- The six stages of ENCODE, in AISK's dependency order (R205). -/
def encodeEffect (n : Byte) (s : State) : State :=
  fmtwrEffect (maskEffect (placeEffect (mbuildEffect (rsencEffect (rsgenEffect n s)))))

/-- ENCODE n: the checks of R206, all before anything is written, then the stages (R205). -/
def execEncode (n : Byte) (s : State) : Host.Outcome State Fault Refusal :=
  if s.status.tblv = false then raise .seq s
  else if s.status.verv = false then raise .seq s
  else if s.status.eclv = false then raise .seq s
  else if s.status.ecv then raise .seq s
  else if n = 0#8 then raise .arg s
  else if alignOutOfRange s then raise .arg s
  else if Config.CW_MAX < s.cwlen.toNat + n.toNat then raise .cap s
  else respond 0#16 (encodeEffect n s)

end Sys2Proof.Machine
end

