-- ==== Sys2Proof/Machine/Dispatch.lean ====
section
/-!
DEFINITION. One arm per command, each a direct call of its meaning.
-/

namespace Sys2Proof.Machine

def exec (i : Instr) (s : State) : Host.Outcome State Fault Refusal :=
  match i with
  | .nop => Sys2Proof.Machine.execNop s
  | .setver v => Sys2Proof.Machine.execSetver v s
  | .setecl e => Sys2Proof.Machine.execSetecl e s
  | .setalnc c => Sys2Proof.Machine.execSetalnc c s
  | .setaln k p => Sys2Proof.Machine.execSetaln k p s
  | .cwclr => Sys2Proof.Machine.execCwclr s
  | .cwpush b => Sys2Proof.Machine.execCwpush b s
  | .rdcw idx => Sys2Proof.Machine.execRdcw idx s
  | .rdmod r c => Sys2Proof.Machine.execRdmod r c s
  | .rdrsv r c => Sys2Proof.Machine.execRdrsv r c s
  | .rdreg n => Sys2Proof.Machine.execRdreg n s
  | .clrerr => Sys2Proof.Machine.execClrerr s
  | .sreset => Sys2Proof.Machine.execSreset s
  | .gfinit => Sys2Proof.Machine.execGfinit s
  | .gfmul a b => Sys2Proof.Machine.execGfmul a b s
  | .gfexp e => Sys2Proof.Machine.execGfexp e s
  | .gflog a => Sys2Proof.Machine.execGflog a s
  | .rsgen n => Sys2Proof.Machine.execRsgen n s
  | .rsclr => Sys2Proof.Machine.execRsclr s
  | .rsbyte b => Sys2Proof.Machine.execRsbyte b s
  | .rsenc => Sys2Proof.Machine.execRsenc s
  | .rdgen j => Sys2Proof.Machine.execRdgen j s
  | .rdrem j => Sys2Proof.Machine.execRdrem j s
  | .mbuild => Sys2Proof.Machine.execMbuild s
  | .place => Sys2Proof.Machine.execPlace s
  | .mask => Sys2Proof.Machine.execMask s
  | .bchenc f => Sys2Proof.Machine.execBchenc f s
  | .fmtwr => Sys2Proof.Machine.execFmtwr s
  | .encode n => Sys2Proof.Machine.execEncode n s

end Sys2Proof.Machine
end

