-- ==== Sys2Proof/WellFormed.lean ====
section
/-!
DEFINITION. The well-formedness of a command word for its format: spec/30_encoding.md R72, R77.

A term of `Instr` is never ill formed, since its operands have exactly the widths of their fields
(R71, R73); what can be ill formed is a WORD, by a 1 in a bit that its format requires to be zero.
-/

namespace Sys2Proof

/-- The four formats of R72. -/
inductive Format where
  /-- no operand -/
  | z
  /-- one byte operand -/
  | a
  /-- two byte operands -/
  | ab
  /-- one 16-bit index -/
  | x
  deriving DecidableEq, Repr

/-- The mask of fixed bits of a format, the last column of R72's table. -/
def Format.fixedBits : Format → Word
  | .z => 0xFFFFFFFF#32
  | .a => 0xFF00FFFF#32
  | .ab => 0xFF0000FF#32
  | .x => 0xFFFF0000#32

/-- The bits a format requires to be zero: its fixed bits but the opcode's (R72, R77). -/
def Format.mustBeZero (f : Format) : Word := f.fixedBits &&& 0x00FFFFFF#32

/-- `w` has a 0 in every bit that format `f` requires to be zero (R77). -/
def Format.fits (f : Format) (w : Word) : Bool := w &&& f.mustBeZero == 0#32

/-- The format of a command (R74, third column). -/
def Instr.format : Instr → Format
  | .nop | .cwclr | .clrerr | .sreset | .gfinit | .rsclr | .rsenc | .mbuild | .place | .mask
  | .fmtwr => .z
  | .setver _ | .setecl _ | .setalnc _ | .cwpush _ | .rdreg _ | .gfexp _ | .gflog _ | .rsgen _
  | .rsbyte _ | .rdgen _ | .rdrem _ | .bchenc _ | .encode _ => .a
  | .setaln _ _ | .rdmod _ _ | .rdrsv _ _ | .gfmul _ _ => .ab
  | .rdcw _ => .x

end Sys2Proof
end

