-- ==== Sys2Proof/Decode.lean ====
section
/-!
DEFINITION. The decoder, total on every 32-bit word (spec/30_encoding.md R79), and the encoder,
written from the same rules R71, R72, R74.
-/

namespace Sys2Proof

/-- OP, bits 31:24 (R71). -/
def opField (w : Word) : Byte := w.extractLsb' 24 8

/-- A, bits 23:16 (R71). -/
def aField (w : Word) : Byte := w.extractLsb' 16 8

/-- B, bits 15:8 (R71). -/
def bField (w : Word) : Byte := w.extractLsb' 8 8

/-- IDX, bits 15:0 (R71). -/
def idxField (w : Word) : Half := w.extractLsb' 0 16

/-- A row of the opcode map as the decoder uses it: the format, with the command its operands
make (R72, R73). -/
inductive Row where
  | z (i : Instr)
  | a (f : Byte → Instr)
  | ab (f : Byte → Byte → Instr)
  | x (f : Half → Instr)

/-- The format of a row. -/
def Row.format : Row → Format
  | .z _ => .z
  | .a _ => .a
  | .ab _ => .ab
  | .x _ => .x

/-- Operand assembly (R73). -/
def Row.assemble (w : Word) : Row → Instr
  | .z i => i
  | .a f => f (aField w)
  | .ab f => f (aField w) (bField w)
  | .x f => f (idxField w)

/-- The rows of the host access commands, high nibble 0x0 (R74). -/
def hostRows : List (Nat × Row) :=
  [(0x00, .z .nop), (0x01, .a .setver), (0x02, .a .setecl), (0x03, .a .setalnc),
   (0x04, .ab .setaln), (0x05, .z .cwclr), (0x06, .a .cwpush), (0x07, .x .rdcw),
   (0x08, .ab .rdmod), (0x09, .ab .rdrsv), (0x0A, .a .rdreg), (0x0B, .z .clrerr),
   (0x0C, .z .sreset)]

/-- The rows of the Galois-field engine and the Reed-Solomon encoder, 0x1 and 0x2 (R74). -/
def codingRows : List (Nat × Row) :=
  [(0x10, .z .gfinit), (0x11, .ab .gfmul), (0x12, .a .gfexp), (0x13, .a .gflog),
   (0x20, .a .rsgen), (0x21, .z .rsclr), (0x22, .a .rsbyte), (0x23, .z .rsenc),
   (0x24, .a .rdgen), (0x25, .a .rdrem)]

/-- The rows of the matrix commands and of the whole pipeline, 0x3 to 0x7 (R74). -/
def matrixRows : List (Nat × Row) :=
  [(0x30, .z .mbuild), (0x40, .z .place), (0x50, .z .mask), (0x60, .a .bchenc),
   (0x61, .z .fmtwr), (0x70, .a .encode)]

/-- The opcode map (R74). -/
def opcodeMap : List (Nat × Row) := hostRows ++ codingRows ++ matrixRows

/-- The row of an opcode, if it is defined (R75). -/
def rowOf (op : Byte) : Option Row := opcodeMap.lookup op.toNat

/-- The decoder (R79): look up OP, check the must-be-zero bits, assemble the operands. -/
def decode (w : Word) : Except Illegal Instr :=
  match rowOf (opField w) with
  | none => .error .reservedOp
  | some row => if row.format.fits w then .ok (row.assemble w) else .error .mustBeZero

/-- The 32-bit word of an instruction whose `nbits` low bits are those of `w`, bit 0 the least
significant of the word, and whose other bits are 0. A word travels in parallel, so no byte order
arises (R56). -/
def commandWord (nbits w : Nat) : Word := BitVec.ofNat 32 (w % 2 ^ nbits)

/-- What the decoder reads from the opcode table's numbering of a word's bits. -/
def decodeTableWord (nbits w : Nat) : Option Instr :=
  match decode (commandWord nbits w) with
  | .ok i => some i
  | .error _ => none

/-- A word of format Z (R72). -/
def wordZ (op : Byte) : Word := op ++ 0#8 ++ 0#8 ++ 0#8

/-- A word of format A (R72). -/
def wordA (op a : Byte) : Word := op ++ a ++ 0#8 ++ 0#8

/-- A word of format AB (R72). -/
def wordAB (op a b : Byte) : Word := op ++ a ++ b ++ 0#8

/-- A word of format X (R72). -/
def wordX (op : Byte) (idx : Half) : Word := op ++ 0#8 ++ idx

/-- The encoder: the word of a command (R72, R74). -/
def encode : Instr → Word
  | .nop => wordZ 0x00#8
  | .setver v => wordA 0x01#8 v
  | .setecl e => wordA 0x02#8 e
  | .setalnc c => wordA 0x03#8 c
  | .setaln k p => wordAB 0x04#8 k p
  | .cwclr => wordZ 0x05#8
  | .cwpush b => wordA 0x06#8 b
  | .rdcw idx => wordX 0x07#8 idx
  | .rdmod r c => wordAB 0x08#8 r c
  | .rdrsv r c => wordAB 0x09#8 r c
  | .rdreg n => wordA 0x0A#8 n
  | .clrerr => wordZ 0x0B#8
  | .sreset => wordZ 0x0C#8
  | .gfinit => wordZ 0x10#8
  | .gfmul a b => wordAB 0x11#8 a b
  | .gfexp i => wordA 0x12#8 i
  | .gflog a => wordA 0x13#8 a
  | .rsgen n => wordA 0x20#8 n
  | .rsclr => wordZ 0x21#8
  | .rsbyte b => wordA 0x22#8 b
  | .rsenc => wordZ 0x23#8
  | .rdgen j => wordA 0x24#8 j
  | .rdrem j => wordA 0x25#8 j
  | .mbuild => wordZ 0x30#8
  | .place => wordZ 0x40#8
  | .mask => wordZ 0x50#8
  | .bchenc f => wordA 0x60#8 f
  | .fmtwr => wordZ 0x61#8
  | .encode n => wordA 0x70#8 n

end Sys2Proof
end

