-- ==== Sys2Proof/Machine/Fetch.lean ====
section
/-!
DEFINITION. What the sequencer does before a command executes: it takes the host's next event
(spec/10_state.md R20, R21, spec/30_encoding.md R82), and answers a word that is no command
(spec/30_encoding.md R75, R77).
-/

namespace Sys2Proof.Machine

/-- The host's next event, if it has one (R82). -/
def nextEvent (s : State) : Option HostEvent := s.inputs.head?

/-- A command word is accepted from the host: the event is taken and the word decoded (R79). -/
def accept (w : Word) (s : State) : Except Illegal Instr × State := (decode w, s.dequeue)

/-- An illegal word: ERR_OPCODE, for a reserved OP and for a 1 in a must-be-zero bit alike
(R75, R77, R212). -/
def execIllegal (_ : Illegal) (s : State) : Host.Outcome State Fault Refusal := raise .opcode s

/-- `rst` is asserted: the state is reset and no response is delivered, whether the core was idle
or a command was in progress (R230). -/
def execReset (s : State) : Host.Outcome State Fault Refusal := .next s.dequeue.restart

/-- The host has nothing to do: the core stays idle (R231, R240; log 1). -/
def idle (s : State) : Host.Outcome State Fault Refusal := .next s

end Sys2Proof.Machine
end

