-- ==== Sys2Proof/Machine/Step.lean ====
section
/-!
DEFINITION. One step of the sequencer: one event of the host, handled as one atomic transition
(spec/10_state.md R20, spec/20_memory.md R59).
-/

namespace Sys2Proof.Machine

/-- One step (R20): take the host's next event; a command word is decoded, executed to completion
and answered by exactly one response (R82). -/
def step (s : State) : Host.Outcome State Fault Refusal :=
  match nextEvent s with
  | none => idle s
  | some .reset => execReset s
  | some (.resetDuring _) => execReset s
  | some (.command w) =>
    match accept w s with
    | (.ok i, t) => exec i t
    | (.error e, t) => execIllegal e t

/-- `s` with the command whose low `nbits` bits are those of `w` presented next by the host: where
`step` takes its next instruction (R21: the host presents the words). -/
def State.withFetchWord (s : State) (nbits w : Nat) : State :=
  { s with inputs := .command (commandWord nbits w) :: s.inputs }

end Sys2Proof.Machine
end

