-- ==== Sys2Proof/Safety.lean ====
section
/-!
DEFINITION. What counts as a good state, in the terms claims use: legal register values
(spec/10_state.md R22), consistent stage flags (R24), canonical and bounded memories (R29 to R35),
elements that a command may read and that have been written (spec/20_memory.md R64), and tables and
generator as the rules build them (spec/41_gf.md R111, spec/42_rs.md R131).
-/

namespace Sys2Proof.Machine

/-- MSIZE holds the side of a symbol of a legal version (R22). -/
def legalSize (n : Nat) : Prop := ∃ v, Config.VER_MIN ≤ v ∧ v ≤ Config.VER_MAX ∧ n = Config.SIZE v

/-- Every scalar register holds a value that R22 calls legal. ECLBITS, ALNCNT, NEC and ALIGN have
no illegal value in their width; FMT holds 0 or one of the four words FMTWR can produce (R192). -/
structure State.RegistersLegal (s : State) : Prop where
  version : s.version.toNat ≤ Config.VER_MAX
  cwlen : s.cwlen.toNat ≤ Config.CW_MAX
  ndata : s.ndata.toNat ≤ s.cwlen.toNat
  msize : s.msize = 0#6 ∨ legalSize s.msize.toNat
  fmt : s.fmt ∈ [0#15, 0x5412#15, 0x77C4#15, 0x1689#15, 0x355F#15]
  plcells : s.plcells.toNat ≤ 3249

/-- The stage flags say what R24 says they mean, as far as the registers show it. -/
structure State.FlagsConsistent (s : State) : Prop where
  verv : s.status.verv = true ↔ s.version ≠ 0#4
  eclv : s.status.eclv = false → s.eclbits = 0#2
  genv : s.status.genv = true ↔ s.nec ≠ 0#8
  /-- R136: "GENV = 1 implies TBLV = 1" -/
  genv_tblv : s.status.genv = true → s.status.tblv = true
  ecv_genv : s.status.ecv = true → s.status.genv = true
  /-- NDATA is 0 until RSENC runs (R23) and CWCLR clears both (R96) -/
  ecv_ndata : s.status.ecv = false → s.ndata = 0#10
  matv : s.status.matv = true ↔ s.msize ≠ 0#6
  placed : s.status.placed = true → s.status.matv = true
  masked : s.status.masked = true → s.status.matv = true
  fmtd : s.status.fmtd = true → s.status.matv = true
  unplaced : s.status.placed = false → s.plcells = 0#12
  plshort : s.status.plshort = true → s.status.placed = true
  plover : s.status.plover = true → s.status.placed = true
  /-- R178: never both 1 -/
  mismatch : ¬ (s.status.plshort = true ∧ s.status.plover = true)

/-- Every memory is in canonical form. -/
structure State.Canonical (s : State) : Prop where
  exp : Memory.wf s.exp
  log : Memory.wf s.log
  gen : Memory.wf s.gen
  rem : Memory.wf s.rem
  cw : Memory.wf s.cw
  mod : Memory.wf s.mod
  rsv : Memory.wf s.rsv

/-- Index `a` of a grid list is a cell of the 57 by 57 grid. -/
def inGrid (a : Nat) : Prop := a / 256 < Config.SIZE_MAX ∧ a % 256 < Config.SIZE_MAX

/-- Every listed element exists in its array (R29 to R35). -/
structure State.Bounded (s : State) : Prop where
  exp : ∀ p ∈ s.exp, p.1 < 255
  log : ∀ p ∈ s.log, 1 ≤ p.1 ∧ p.1 ≤ 255
  gen : ∀ p ∈ s.gen, p.1 ≤ 255
  rem : ∀ p ∈ s.rem, p.1 < 255
  cw : ∀ p ∈ s.cw, p.1 < Config.CW_MAX
  mod : ∀ p ∈ s.mod, inGrid p.1
  rsv : ∀ p ∈ s.rsv, inGrid p.1

/-- Every element that the valid flags and counts let a command read has been written since reset
(R64). -/
structure State.Written (s : State) : Prop where
  exp : s.status.tblv = true → ∀ i < 255, (readCell s.exp i).isSome
  log : s.status.tblv = true → ∀ a, 1 ≤ a → a ≤ 255 → (readCell s.log a).isSome
  gen : s.status.genv = true → ∀ j ≤ s.nec.toNat, (readCell s.gen j).isSome
  rem : s.status.genv = true → ∀ j < s.nec.toNat, (readCell s.rem j).isSome
  cw : ∀ i < s.cwlen.toNat, (readCell s.cw i).isSome
  mod : s.status.matv = true → ∀ r < s.msize.toNat, ∀ c < s.msize.toNat,
    (readGrid s.mod r c).isSome
  rsv : s.status.matv = true → ∀ r < s.msize.toNat, ∀ c < s.msize.toNat,
    (readGrid s.rsv r c).isSome

/-- Multiplication of a field element by 2 on bytes: `x^8` is replaced by `x^4 + x^3 + x^2 + 1`
(R110). -/
def gfTimes2 (b : Byte) : Byte := (b <<< 1) ^^^ if b.getLsbD 7 then 0x1D#8 else 0#8

/-- 2 to the power `i` in the field (R29). -/
def gfPower : Nat → Byte
  | 0 => 1#8
  | i + 1 => gfTimes2 (gfPower i)

/-- While TBLV is 1, EXP and LOG hold the powers of 2 and their inverse (R24, R29, R30). -/
structure State.TablesBuilt (s : State) : Prop where
  exp : s.status.tblv = true → ∀ i < 255, readCell s.exp i = some (gfPower i)
  log : s.status.tblv = true →
    ∀ i < 255, readCell s.log (gfPower i).toNat = some (BitVec.ofNat 8 i)

/-- Coefficient `j` of the generator of degree `i`, by the recurrence of R131, with the tables that
`s` holds: `g'[j] = g[j] ^ gfmul(g[j-1], EXP[i])`. -/
def genCoeff (s : State) : Nat → Nat → Byte
  | 0, j => if j = 0 then 1#8 else 0#8
  | i + 1, j =>
    (if j ≤ i then genCoeff s i j else 0#8) ^^^
      (if 1 ≤ j then gfmul s (genCoeff s i (j - 1)) (readExp s i) else 0#8)

/-- While GENV is 1, GEN holds the generator polynomial of degree NEC (R24, R31). -/
def State.GeneratorBuilt (s : State) : Prop :=
  s.status.genv = true → ∀ j ≤ s.nec.toNat, readCell s.gen j = some (genCoeff s s.nec.toNat j)

/-- The five flags of a finished symbol (R26): MATV, PLACED, MASKED, FMTD and not PLOVER. Whether
the placement was made from a buffer with ECV = 1 is no flag; the host knows it. -/
def State.finished (s : State) : Bool :=
  s.status.matv && s.status.placed && s.status.masked && s.status.fmtd && !s.status.plover

/-- "Nothing went wrong in this run", together with no CLRERR in it (R214). -/
def State.noError (s : State) : Prop := s.status.err = .ok

end Sys2Proof.Machine
end

