-- ==== Sys2Proof/Certificates/Slice0/Obligations.lean ====
section
/-!
DEFINITION. The statements for the provers. Each docstring names the rule of spec/ it formalises.
The definitions under `Sys2Proof.Claims` say again, from the spec's words, what the statements
compare the machine with.
-/

namespace Sys2Proof.Claims

open Sys2Proof.Machine

/-! ### Responses -/

/-- The responses after a command that succeeds with data `d` (spec/30_encoding.md R76). -/
def answered (s : State) (d : Half) : List Word := s.responses ++ [(0#16 ++ d : BitVec 32)]

/-- The response word of a failing command, `code(E) << 28` (R76, R211). -/
def failWord : ErrCode → Word
  | .ok => 0x00000000#32
  | .opcode => 0x10000000#32
  | .arg => 0x20000000#32
  | .seq => 0x30000000#32
  | .cap => 0x40000000#32

/-- The state after a command that fails with `e`: nothing is written but STATUS.ERR, if it was 0
(spec/60_exceptions.md R212). -/
def failed (s : State) (e : ErrCode) : State :=
  { s with
    status := { s.status with err := if s.status.err = .ok then e else s.status.err }
    responses := s.responses ++ [failWord e] }

/-- A state with another value in the latch STATUS.ERR. -/
def withErr (s : State) (e : ErrCode) : State := { s with status := { s.status with err := e } }

/-- From `s'`, a state with one register changed, `i` leaves `t`, the state it leaves without the
change (so what it wrote to the register does not depend on what was there), or else, where `i`
keeps the register, `t` with the same change, `t'`. -/
def blindTo (i : Instr) (s' t t' : State) (kept : Prop) : Prop :=
  exec i s' = .next t ∨ kept ∧ exec i s' = .next t'

/-! ### Encoding -/

/-- The rows of spec/opcode_table.json: match and mask. -/
def tableRows : List (Word × Word) :=
  [(0x00000000#32, 0xFFFFFFFF#32), (0x01000000#32, 0xFF00FFFF#32), (0x02000000#32, 0xFF00FFFF#32),
   (0x03000000#32, 0xFF00FFFF#32), (0x04000000#32, 0xFF0000FF#32), (0x05000000#32, 0xFFFFFFFF#32),
   (0x06000000#32, 0xFF00FFFF#32), (0x07000000#32, 0xFFFF0000#32), (0x08000000#32, 0xFF0000FF#32),
   (0x09000000#32, 0xFF0000FF#32), (0x0A000000#32, 0xFF00FFFF#32), (0x0B000000#32, 0xFFFFFFFF#32),
   (0x0C000000#32, 0xFFFFFFFF#32), (0x10000000#32, 0xFFFFFFFF#32), (0x11000000#32, 0xFF0000FF#32),
   (0x12000000#32, 0xFF00FFFF#32), (0x13000000#32, 0xFF00FFFF#32), (0x20000000#32, 0xFF00FFFF#32),
   (0x21000000#32, 0xFFFFFFFF#32), (0x22000000#32, 0xFF00FFFF#32), (0x23000000#32, 0xFFFFFFFF#32),
   (0x24000000#32, 0xFF00FFFF#32), (0x25000000#32, 0xFF00FFFF#32), (0x30000000#32, 0xFFFFFFFF#32),
   (0x40000000#32, 0xFFFFFFFF#32), (0x50000000#32, 0xFFFFFFFF#32), (0x60000000#32, 0xFF00FFFF#32),
   (0x61000000#32, 0xFFFFFFFF#32), (0x70000000#32, 0xFF00FFFF#32)]

/-- Format Z: the word of `op` with zeros below decodes to `i` (R72). -/
def codedZ (op : Byte) (i : Instr) : Prop := decode (op ++ 0#24 : BitVec 32) = .ok i

/-- Format A: every operand value decodes to itself (R72, R73). -/
def codedA (op : Byte) (f : Byte → Instr) : Prop :=
  ∀ a : Byte, decode (op ++ a ++ 0#16 : BitVec 32) = .ok (f a)

/-- Format AB (R72, R73). -/
def codedAB (op : Byte) (f : Byte → Byte → Instr) : Prop :=
  ∀ a b : Byte, decode (op ++ a ++ b ++ 0#8 : BitVec 32) = .ok (f a b)

/-- Format X (R72, R73). -/
def codedX (op : Byte) (f : Half → Instr) : Prop :=
  ∀ x : Half, decode (op ++ 0#8 ++ x : BitVec 32) = .ok (f x)

/-! ### Errors (spec/60_exceptions.md R215) -/

/-- Every alignment coordinate in use keeps its footprint inside the grid; the list is not used at
version 1 (spec/43_matrix.md R150). -/
def alignLegal (s : State) : Prop :=
  2 ≤ s.version.toNat → ∀ k : Fin 7, k.val < s.alncnt.toNat →
    2 ≤ s.align[k].toNat ∧ s.align[k].toNat ≤ 17 + 4 * s.version.toNat - 3

/-- The column "ERR_SEQ when" of R215. -/
def seqWhen (i : Instr) (s : State) : Prop :=
  match i with
  | .cwpush _ => s.status.ecv = true
  | .rdmod _ _ | .rdrsv _ _ | .place | .mask => s.status.matv = false
  | .gfmul _ _ | .gfexp _ | .gflog _ | .rsgen _ => s.status.tblv = false
  | .rsclr | .rsbyte _ | .rdgen _ | .rdrem _ => s.status.genv = false
  | .rsenc => s.status.genv = false ∨ s.status.ecv = true
  | .mbuild => s.status.verv = false
  | .fmtwr => s.status.matv = false ∨ s.status.eclv = false
  | .encode _ => s.status.tblv = false ∨ s.status.verv = false ∨ s.status.eclv = false ∨
      s.status.ecv = true
  | .nop | .setver _ | .setecl _ | .setalnc _ | .setaln _ _ | .cwclr | .rdcw _ | .rdreg _
  | .clrerr | .sreset | .gfinit | .bchenc _ => False

/-- The column "ERR_ARG when" of R215. -/
def argWhen (i : Instr) (s : State) : Prop :=
  match i with
  | .setver v => v.toNat = 0 ∨ 10 < v.toNat
  | .setecl e => 3 < e.toNat
  | .setalnc c => 7 < c.toNat
  | .setaln k _ => 6 < k.toNat
  | .rdcw idx => s.cwlen.toNat ≤ idx.toNat
  | .rdmod r c | .rdrsv r c => s.msize.toNat ≤ r.toNat ∨ s.msize.toNat ≤ c.toNat
  | .rdreg n => (11 ≤ n.toNat ∧ n.toNat ≤ 15) ∨ 22 < n.toNat
  | .gfexp i => i.toNat = 255
  | .gflog a => a.toNat = 0
  | .rsgen n => n.toNat = 0
  | .rdgen j => s.nec.toNat < j.toNat
  | .rdrem j => s.nec.toNat ≤ j.toNat
  | .mbuild => ¬ alignLegal s
  | .bchenc f => 31 < f.toNat
  | .encode n => n.toNat = 0 ∨ ¬ alignLegal s
  | .nop | .cwclr | .cwpush _ | .clrerr | .sreset | .gfinit | .gfmul _ _ | .rsclr | .rsbyte _
  | .rsenc | .place | .mask | .fmtwr => False

/-- The column "ERR_CAP when" of R215. -/
def capWhen (i : Instr) (s : State) : Prop :=
  match i with
  | .cwpush _ => s.cwlen.toNat = 512
  | .rsenc => 512 < s.cwlen.toNat + s.nec.toNat
  | .encode n => 512 < s.cwlen.toNat + n.toNat
  | .nop | .setver _ | .setecl _ | .setalnc _ | .setaln _ _ | .cwclr | .rdcw _ | .rdmod _ _
  | .rdrsv _ _ | .rdreg _ | .clrerr | .sreset | .gfinit | .gfmul _ _ | .gfexp _ | .gflog _
  | .rsgen _ | .rsclr | .rsbyte _ | .rdgen _ | .rdrem _ | .mbuild | .place | .mask | .bchenc _
  | .fmtwr => False

/-! ### Field arithmetic -/

/-- The carry-less product reduced by 0x11D (spec/41_gf.md R115 (g)). -/
def carrylessProduct (a b : Byte) : Byte :=
  let p := (List.range 8).foldl
    (fun p i => if b.getLsbD i then p ^^^ (a.setWidth 15 <<< i) else p) 0#15
  ([14, 13, 12, 11, 10, 9, 8].foldl
    (fun p i => if p.getLsbD i then p ^^^ (0x11D#15 <<< (i - 8)) else p) p).setWidth 8

/-- The tables are built and TBLV says so. -/
def tabled (s : State) : Prop := s.status.tblv = true ∧ s.TablesBuilt

/-- The value at `x` of the polynomial whose coefficients are `cs`, highest power first
(spec/42_rs.md R130). -/
def polyValue (s : State) (cs : List Byte) (x : Byte) : Byte :=
  cs.foldl (fun acc c => gfmul s acc x ^^^ c) 0#8

/-- Slot `j` of the remainder register after `k` codewords have gone through the divider, from a
register of zeros (R135, R137). -/
def remAfter (s : State) : Nat → Nat → Byte
  | 0, _ => 0#8
  | k + 1, j =>
    (if j + 1 < s.nec.toNat then remAfter s k (j + 1) else 0#8) ^^^
      gfmul s (readGen s (j + 1)) (remAfter s k 0 ^^^ readCw s k)

/-! ### The matrix (spec/43_matrix.md) -/

/-- The 7 by 7 finder pattern (R153). -/
def finderPattern (dr dc : Nat) : Bool :=
  decide (dr = 0 ∨ dr = 6 ∨ dc = 0 ∨ dc = 6 ∨ (2 ≤ dr ∧ dr ≤ 4 ∧ 2 ≤ dc ∧ dc ≤ 4))

/-- Cell `(r, c)` is in one of the three 8 by 8 footprints of finder and separator (R154). -/
abbrev inFinder (size r c : Nat) : Prop :=
  (r ≤ 7 ∧ c ≤ 7) ∨ (r ≤ 7 ∧ size - 8 ≤ c) ∨ (size - 8 ≤ r ∧ c ≤ 7)

/-- Cell `(r, c)` belongs to a finder, a separator or a timing pattern (R153, R154, R155). -/
abbrev structural (size r c : Nat) : Prop := inFinder size r c ∨ r = 6 ∨ c = 6

/-- The module of a cell of a matrix with no alignment pattern after MBUILD: finder patterns,
separators, timing patterns and the dark module (R153, R154, R155, R158). -/
def bareModule (size r c : Nat) : Bool :=
  if r ≤ 7 ∧ c ≤ 7 then decide (r ≤ 6 ∧ c ≤ 6) && finderPattern r c
  else if r ≤ 7 ∧ size - 8 ≤ c then
    decide (r ≤ 6 ∧ size - 7 ≤ c) && finderPattern r (c - (size - 7))
  else if size - 8 ≤ r ∧ c ≤ 7 then
    decide (size - 7 ≤ r ∧ c ≤ 6) && finderPattern (r - (size - 7)) c
  else if r = 6 then c % 2 == 0
  else if c = 6 then r % 2 == 0
  else decide (r = size - 8 ∧ c = 8)

/-- The cells R159 reserves for the format information. -/
def formatReserved (size r c : Nat) : Prop :=
  (r = 8 ∧ (c ≤ 8 ∨ size - 8 ≤ c)) ∨ (c = 8 ∧ (r ≤ 8 ∨ size - 7 ≤ r))

/-- The reserved cells of a matrix with no alignment pattern (R153 to R155, R158, R159). -/
def bareReserved (size r c : Nat) : Prop :=
  structural size r c ∨ (r = size - 8 ∧ c = 8) ∨ formatReserved size r c

/-- While MATV is 1 the structural patterns of the matrix are in place: finder, separator and timing
cells and the dark module hold their modules and are reserved, and the format cells are reserved
(R161, R235). -/
def structureBuilt (s : State) : Prop :=
  s.status.matv = true → ∀ r < s.msize.toNat, ∀ c < s.msize.toNat,
    (structural s.msize.toNat r c ∨ (r = s.msize.toNat - 8 ∧ c = 8) →
      readGrid s.mod r c = some (bareModule s.msize.toNat r c) ∧
      readGrid s.rsv r c = some true) ∧
    (formatReserved s.msize.toNat r c → readGrid s.rsv r c = some true)

/-- A version has been set, and it is a legal one (R92). -/
def versionSet (s : State) : Prop :=
  s.status.verv = true ∧ 1 ≤ s.version.toNat ∧ s.version.toNat ≤ 10

/-- The side MBUILD uses. -/
def sideOf (s : State) : Nat := 17 + 4 * s.version.toNat

/-- The ordered pairs of coordinates in use, row coordinate outermost, list order; none at version
1 (R156). -/
def alignPairs (s : State) : List (Nat × Nat) :=
  let l := (List.range s.alncnt.toNat).map fun k => (s.align[k]?.getD 0#8).toNat
  if 2 ≤ s.version.toNat then l.flatMap fun a => l.map fun b => (a, b) else []

/-- The 5 by 5 footprint centred on `p` covers cell `(r, c)` (R157). -/
abbrev covers (p : Nat × Nat) (r c : Nat) : Prop :=
  p.1 ≤ r + 2 ∧ r ≤ p.1 + 2 ∧ p.2 ≤ c + 2 ∧ c ≤ p.2 + 2

/-- The footprint centred on `p` meets a finder, separator or timing cell, or a pattern placed
earlier (R156). -/
abbrev overlaps (size : Nat) (placed : List (Nat × Nat)) (p : Nat × Nat) : Prop :=
  (∃ i < 5, ∃ j < 5, structural size (p.1 - 2 + i) (p.2 - 2 + j)) ∨
    ∃ q ∈ placed, p.1 ≤ q.1 + 4 ∧ q.1 ≤ p.1 + 4 ∧ p.2 ≤ q.2 + 4 ∧ q.2 ≤ p.2 + 4

/-- The centres of the alignment patterns that are placed (R156). -/
def placedCentres (size : Nat) (pairs : List (Nat × Nat)) : List (Nat × Nat) :=
  pairs.foldl (fun placed p => if overlaps size placed p then placed else placed ++ [p]) []

/-- The module of the alignment pattern centred on `p` at `(r, c)`: dark border, light ring, dark
centre (R157). -/
def alignModule (p : Nat × Nat) (r c : Nat) : Bool :=
  decide (r = p.1 + 2 ∨ r + 2 = p.1 ∨ c = p.2 + 2 ∨ c + 2 = p.2 ∨ (r = p.1 ∧ c = p.2))

/-! ### Placement (spec/44_place.md) -/

/-- The right columns of the lanes: size-1, size-3, ..., 10, 8, 5, 3, 1 (R171). -/
def laneRights (size : Nat) : List Nat :=
  (List.range ((size - 7) / 2)).map (fun i => size - 1 - 2 * i) ++ [5, 3, 1]

/-- The cells of one lane in order: row by row in the lane's direction, right cell first (R171,
R173). -/
def laneCells (size right : Nat) (up : Bool) : List (Nat × Nat) :=
  (if up then (List.range size).reverse else List.range size).flatMap fun row =>
    [(row, right), (row, right - 1)]

/-- The cells in the order the placer visits them: the first, third, ... lanes upwards, the others
downwards (R174). -/
def laneOrder (size : Nat) : List (Nat × Nat) :=
  (laneRights size).zipIdx.flatMap fun p => laneCells size p.1 (p.2 % 2 == 0)

/-- The traversal state after `n` advances (R172, R174). -/
def advanced (size : Nat) : Nat → Traversal
  | 0 => Traversal.start size []
  | n + 1 => (advanced size n).advance size

/-- The free cells in the order of the traversal. -/
def freeCells (s : State) : List (Nat × Nat) :=
  (laneOrder s.msize.toNat).filter fun rc => !readRsv s.rsv rc.1 rc.2

/-- The bit of the `k`-th free cell: bit 7 of CW[0] first, 0 when the bits have run out (R175,
R176). -/
def streamBit (s : State) (k : Nat) : Bool :=
  if k < 8 * s.cwlen.toNat then (readCw s (k / 8)).getLsbD (7 - k % 8) else false

/-! ### Format strips (spec/46_format.md) -/

/-- The horizontal strip (R195). -/
def strip1 (size : Nat) : List (Nat × Nat) :=
  [(8, 0), (8, 1), (8, 2), (8, 3), (8, 4), (8, 5), (8, 7), (8, 8), (8, size - 8), (8, size - 7),
   (8, size - 6), (8, size - 5), (8, size - 4), (8, size - 3), (8, size - 2)]

/-- The vertical strip (R196). -/
def strip2 (size : Nat) : List (Nat × Nat) :=
  [(size - 1, 8), (size - 2, 8), (size - 3, 8), (size - 4, 8), (size - 5, 8), (size - 6, 8),
   (size - 7, 8), (8, 8), (7, 8), (5, 8), (4, 8), (3, 8), (2, 8), (1, 8), (0, 8)]

/-- The format word of each ECL indicator (R192). -/
def formatWord (e : BitVec 2) : BitVec 15 :=
  if e = 0#2 then 0x5412#15 else if e = 1#2 then 0x77C4#15 else if e = 2#2 then 0x1689#15
  else 0x355F#15

/-- The product of a polynomial of degree at most 4 and the generator
`x^10 + x^8 + x^5 + x^4 + x^2 + x + 1`, 0x537 (R191). -/
def bchMultiple (q : BitVec 5) : BitVec 15 :=
  (List.range 5).foldl (fun p i => if q.getLsbD i then p ^^^ (0x537#15 <<< i) else p) 0#15

/-! ### What a command can read -/

/-- Two states agree on every register, on what the host sees, and on every element that the valid
flags and counts let a command read (R64). Elements outside those ranges may differ. -/
structure Agree (s t : State) : Prop where
  status : s.status = t.status
  version : s.version = t.version
  eclbits : s.eclbits = t.eclbits
  alncnt : s.alncnt = t.alncnt
  cwlen : s.cwlen = t.cwlen
  ndata : s.ndata = t.ndata
  nec : s.nec = t.nec
  msize : s.msize = t.msize
  fmt : s.fmt = t.fmt
  plcells : s.plcells = t.plcells
  align : s.align = t.align
  inputs : s.inputs = t.inputs
  responses : s.responses = t.responses
  exp : s.status.tblv = true → ∀ i < 255, readCell s.exp i = readCell t.exp i
  log : s.status.tblv = true → ∀ a, 1 ≤ a → a ≤ 255 → readCell s.log a = readCell t.log a
  gen : s.status.genv = true → ∀ j ≤ s.nec.toNat, readCell s.gen j = readCell t.gen j
  rem : s.status.genv = true → ∀ j < s.nec.toNat, readCell s.rem j = readCell t.rem j
  cw : ∀ i < s.cwlen.toNat, readCell s.cw i = readCell t.cw i
  mod : s.status.matv = true → ∀ r < s.msize.toNat, ∀ c < s.msize.toNat,
    readGrid s.mod r c = readGrid t.mod r c
  rsv : s.status.matv = true → ∀ r < s.msize.toNat, ∀ c < s.msize.toNat,
    readGrid s.rsv r c = readGrid t.rsv r c

/-- ENCODE n passes all the checks of spec/47_encode.md R206. -/
def encodeReady (n : Byte) (s : State) : Prop :=
  s.status.tblv = true ∧ s.status.verv = true ∧ s.status.eclv = true ∧ s.status.ecv = false ∧
    n ≠ 0#8 ∧ alignLegal s ∧ s.cwlen.toNat + n.toNat ≤ 512

end Sys2Proof.Claims

open Sys2Proof Sys2Proof.Machine Sys2Proof.Claims

/-! ## Encoding and stepping -/

/-- Every command decodes from its own word, with every operand at every value (R72, R73, R74). -/
def Obligations.DecodeOfEncode : Prop := ∀ i : Instr, decode (encode i) = .ok i

/-- A word that decodes is the word of the command it decodes to: no bit is dropped (R78). -/
def Obligations.EncodeOfDecode : Prop :=
  ∀ (w : Word) (i : Instr), decode w = .ok i → encode i = w

/-- A word is one of the 29 commands exactly when it matches a row of the opcode table under the
row's mask; it matches at most one row; otherwise it is illegal, for a reserved OP or for a 1 in a
must-be-zero bit (R72, R75, R77, R78). -/
def Obligations.WordsMatchTheTable : Prop :=
  ∀ w : Word,
    ((∃ i, decode w = .ok i) ↔ ∃ row ∈ tableRows, w &&& row.2 = row.1) ∧
    (decode w = .error .reservedOp ↔ ∀ row ∈ tableRows, w &&& 0xFF000000#32 ≠ row.1) ∧
    (∀ row ∈ tableRows, ∀ row' ∈ tableRows,
      w &&& row.2 = row.1 → w &&& row'.2 = row'.1 → row = row')

/-- Words written out from the spec's encoding tables, one per family (30_encoding R80,
95_test_vectors section 2). -/
def Obligations.SpecWordsDecode : Prop :=
  decode 0x01010000#32 = .ok (.setver 1#8) ∧
  decode 0x04063200#32 = .ok (.setaln 6#8 50#8) ∧
  decode 0x070001FF#32 = .ok (.rdcw 511#16) ∧
  decode 0x1153CA00#32 = .ok (.gfmul 0x53#8 0xCA#8) ∧
  decode 0x20FF0000#32 = .ok (.rsgen 255#8) ∧
  decode 0x30000000#32 = .ok .mbuild ∧
  decode 0x40000000#32 = .ok .place ∧
  decode 0x50000000#32 = .ok .mask ∧
  decode 0x601F0000#32 = .ok (.bchenc 31#8) ∧
  decode 0x700A0000#32 = .ok (.encode 10#8) ∧
  decode 0x0D000000#32 = .error .reservedOp ∧
  decode 0x11020380#32 = .error .mustBeZero

/-- A step runs the decoded command: when the host's next event is a word that decodes to `i`, the
step is `exec i` at the state whose next event is the one after it (R20, R79, R82). -/
def Obligations.StepRunsDecodedCommand : Prop :=
  ∀ (s : State) (w : Word) (rest : List HostEvent) (i : Instr),
    s.inputs = .command w :: rest → decode w = .ok i → step s = exec i { s with inputs := rest }

/-- An illegal word is answered 0x10000000 and changes no state other than STATUS.ERR (R75,
R77). -/
def Obligations.StepAnswersIllegalWord : Prop :=
  ∀ (s : State) (w : Word) (rest : List HostEvent) (e : Illegal),
    s.inputs = .command w :: rest → decode w = .error e →
      step s = .next (failed { s with inputs := rest } .opcode)

/-- `rst`, with or without a command in progress, and SRESET have the same effect on the state; the
reset input delivers no response (R230). The events to come and the responses already delivered are
the model's own bookkeeping (log 1, log 2). -/
def Obligations.ResetInputEqualsSreset : Prop :=
  ∀ (s : State) (ev : HostEvent) (rest : List HostEvent),
    s.inputs = ev :: rest → (ev = .reset ∨ ∃ w, ev = .resetDuring w) →
      step s = .next { State.reset with inputs := rest, responses := s.responses } ∧
      exec .sreset { s with inputs := rest } =
        .next { State.reset with inputs := rest, responses := s.responses ++ [0#32] }

/-! ## Whole-machine rules -/

/-- Every accepted command produces exactly one response, whose bits 27:16 are zero, whose ERR is
one of the five codes and whose DATA is 0 when ERR is not (R76, R82, R211); the step never stops. -/
def Obligations.EveryCommandAnsweredOnce : Prop :=
  ∀ (s : State) (w : Word) (rest : List HostEvent), s.inputs = .command w :: rest →
    ∃ (t : State) (r : Word), step s = .next t ∧ t.inputs = rest ∧
      t.responses = s.responses ++ [r] ∧ r.extractLsb' 16 12 = 0#12 ∧
      (r.extractLsb' 28 4).toNat ≤ 4 ∧ (r.extractLsb' 28 4 ≠ 0#4 → r.extractLsb' 0 16 = 0#16)

/-- A command either succeeds, with ERR 0 in its response, or has no effect but on STATUS.ERR and
answers `code(E) << 28` (R212). -/
def Obligations.FailureHasNoEffect : Prop :=
  ∀ (i : Instr) (s t : State), exec i s = .next t →
    (∃ d : Half, t.responses = answered s d) ∨ ∃ e : ErrCode, e ≠ .ok ∧ t = failed s e

/-- The error table of R215 with the priorities of R213: ERR_OPCODE, found by the decoder, before
ERR_SEQ before ERR_ARG before ERR_CAP; and a command to which no row applies succeeds. -/
def Obligations.ErrorTableIsComplete : Prop :=
  (∀ (s : State) (w : Word) (rest : List HostEvent) (e : Illegal),
    s.inputs = .command w :: rest → decode w = .error e →
      step s = .next (failed { s with inputs := rest } .opcode)) ∧
  ∀ (i : Instr) (s : State),
    (seqWhen i s → exec i s = .next (failed s .seq)) ∧
    (¬ seqWhen i s → argWhen i s → exec i s = .next (failed s .arg)) ∧
    (¬ seqWhen i s → ¬ argWhen i s → capWhen i s → exec i s = .next (failed s .cap)) ∧
    (¬ seqWhen i s → ¬ argWhen i s → ¬ capWhen i s →
      ∃ (t : State) (d : Half), exec i s = .next t ∧ t.responses = answered s d)

/-- The read commands change no state other than, on failure, STATUS.ERR (R59). -/
def Obligations.ReadCommandsChangeNothing : Prop :=
  ∀ (i : Instr) (s t : State),
    (match i with
      | .gfexp _ | .gflog _ | .gfmul _ _ | .rdgen _ | .rdrem _ | .rdcw _ | .rdmod _ _
      | .rdrsv _ _ | .rdreg _ | .bchenc _ => True
      | .nop | .setver _ | .setecl _ | .setalnc _ | .setaln _ _ | .cwclr | .cwpush _ | .clrerr
      | .sreset | .gfinit | .rsgen _ | .rsclr | .rsbyte _ | .rsenc | .mbuild | .place | .mask
      | .fmtwr | .encode _ => False) →
    exec i s = .next t →
      (∃ d : Half, t = { s with responses := answered s d }) ∨
        ∃ e : ErrCode, e ≠ .ok ∧ t = failed s e

/-- Each array is written only by the commands that R51, with R205 and R103, lists for it. -/
def Obligations.ArrayWriters : Prop :=
  ∀ (i : Instr) (s t : State), exec i s = .next t →
    (t.exp ≠ s.exp ∨ t.log ≠ s.log → i = .gfinit ∨ i = .sreset) ∧
    (t.gen ≠ s.gen → (∃ n, i = .rsgen n) ∨ (∃ n, i = .encode n) ∨ i = .sreset) ∧
    (t.rem ≠ s.rem → (∃ n, i = .rsgen n) ∨ i = .rsclr ∨ (∃ b, i = .rsbyte b) ∨ i = .rsenc ∨
      (∃ n, i = .encode n) ∨ i = .sreset) ∧
    (t.cw ≠ s.cw → (∃ b, i = .cwpush b) ∨ i = .rsenc ∨ (∃ n, i = .encode n) ∨ i = .sreset) ∧
    (t.align ≠ s.align → (∃ k p, i = .setaln k p) ∨ i = .sreset) ∧
    (t.mod ≠ s.mod → i = .mbuild ∨ i = .place ∨ i = .mask ∨ i = .fmtwr ∨
      (∃ n, i = .encode n) ∨ i = .sreset) ∧
    (t.rsv ≠ s.rsv → i = .mbuild ∨ (∃ n, i = .encode n) ∨ i = .sreset)

/-- Each scalar register is written only by the commands of the column "written by" of R22. -/
def Obligations.RegisterWriters : Prop :=
  ∀ (i : Instr) (s t : State), exec i s = .next t →
    (t.version ≠ s.version → (∃ v, i = .setver v) ∨ i = .sreset) ∧
    (t.eclbits ≠ s.eclbits → (∃ e, i = .setecl e) ∨ i = .sreset) ∧
    (t.alncnt ≠ s.alncnt → (∃ c, i = .setalnc c) ∨ i = .sreset) ∧
    (t.cwlen ≠ s.cwlen → i = .cwclr ∨ (∃ b, i = .cwpush b) ∨ i = .rsenc ∨
      (∃ n, i = .encode n) ∨ i = .sreset) ∧
    (t.ndata ≠ s.ndata → i = .cwclr ∨ i = .rsenc ∨ (∃ n, i = .encode n) ∨ i = .sreset) ∧
    (t.nec ≠ s.nec → (∃ n, i = .rsgen n) ∨ (∃ n, i = .encode n) ∨ i = .sreset) ∧
    (t.msize ≠ s.msize → i = .mbuild ∨ (∃ n, i = .encode n) ∨ i = .sreset) ∧
    (t.fmt ≠ s.fmt → i = .fmtwr ∨ (∃ n, i = .encode n) ∨ i = .sreset) ∧
    (t.plcells ≠ s.plcells → i = .mbuild ∨ i = .place ∨ (∃ n, i = .encode n) ∨ i = .sreset)

/-- Each scalar register, and each ALIGN[k], is read only by the commands of the column "read by" of
R22: with another value in the register any other command leaves the same state and response, the
register too if the command writes it; if it does not, the register alone keeps its value. -/
def Obligations.RegisterReaders : Prop :=
  ∀ (i : Instr) (s t : State), exec i s = .next t →
    (∀ v, i ≠ .mbuild → (∀ n, i ≠ .encode n) → i ≠ .rdreg 1#8 →
      blindTo i { s with version := v } t { t with version := v } (t.version = s.version)) ∧
    (∀ v, i ≠ .fmtwr → (∀ n, i ≠ .encode n) → i ≠ .rdreg 2#8 →
      blindTo i { s with eclbits := v } t { t with eclbits := v } (t.eclbits = s.eclbits)) ∧
    (∀ v, i ≠ .mbuild → (∀ n, i ≠ .encode n) → i ≠ .rdreg 3#8 →
      blindTo i { s with alncnt := v } t { t with alncnt := v } (t.alncnt = s.alncnt)) ∧
    (∀ v, (∀ x, i ≠ .rdcw x) → (∀ b, i ≠ .cwpush b) → i ≠ .rsenc → i ≠ .place →
      (∀ n, i ≠ .encode n) → i ≠ .rdreg 4#8 →
      blindTo i { s with cwlen := v } t { t with cwlen := v } (t.cwlen = s.cwlen)) ∧
    (∀ v, i ≠ .rdreg 5#8 →
      blindTo i { s with ndata := v } t { t with ndata := v } (t.ndata = s.ndata)) ∧
    (∀ v, i ≠ .rsclr → (∀ b, i ≠ .rsbyte b) → i ≠ .rsenc → (∀ j, i ≠ .rdgen j) →
      (∀ j, i ≠ .rdrem j) → i ≠ .rdreg 6#8 →
      blindTo i { s with nec := v } t { t with nec := v } (t.nec = s.nec)) ∧
    (∀ v, i ≠ .place → i ≠ .mask → i ≠ .fmtwr → (∀ r c, i ≠ .rdmod r c) →
      (∀ r c, i ≠ .rdrsv r c) → i ≠ .rdreg 7#8 →
      blindTo i { s with msize := v } t { t with msize := v } (t.msize = s.msize)) ∧
    (∀ v, i ≠ .rdreg 8#8 →
      blindTo i { s with fmt := v } t { t with fmt := v } (t.fmt = s.fmt)) ∧
    (∀ v, i ≠ .rdreg 9#8 →
      blindTo i { s with plcells := v } t { t with plcells := v } (t.plcells = s.plcells)) ∧
    (∀ (k : Fin 7) (v : Byte), i ≠ .mbuild → (∀ n, i ≠ .encode n) →
      i ≠ .rdreg (BitVec.ofNat 8 (16 + k.val)) →
      blindTo i { s with align := s.align.set k.val v } t { t with align := t.align.set k.val v }
        (t.align[k] = s.align[k]))

/-- The columns "set by" and "cleared by" of R24, and MASKED of R26. ENCODE can clear PLSHORT and
PLOVER, since MBUILD and PLACE, which clear them, are among its stages (R205). -/
def Obligations.StatusFlagWriters : Prop :=
  ∀ (i : Instr) (s t : State), exec i s = .next t →
    (t.status.tblv ≠ s.status.tblv → i = if t.status.tblv then .gfinit else .sreset) ∧
    (t.status.genv ≠ s.status.genv →
      if t.status.genv then (∃ n, i = .rsgen n) ∨ ∃ n, i = .encode n else i = .sreset) ∧
    (t.status.ecv ≠ s.status.ecv →
      if t.status.ecv then i = .rsenc ∨ ∃ n, i = .encode n else i = .cwclr ∨ i = .sreset) ∧
    (t.status.verv ≠ s.status.verv → if t.status.verv then ∃ v, i = .setver v else i = .sreset) ∧
    (t.status.eclv ≠ s.status.eclv → if t.status.eclv then ∃ e, i = .setecl e else i = .sreset) ∧
    (t.status.matv ≠ s.status.matv →
      if t.status.matv then i = .mbuild ∨ ∃ n, i = .encode n else i = .sreset) ∧
    (t.status.placed ≠ s.status.placed →
      if t.status.placed then i = .place ∨ ∃ n, i = .encode n else i = .mbuild ∨ i = .sreset) ∧
    (t.status.masked ≠ s.status.masked →
      if t.status.masked then i = .mask ∨ ∃ n, i = .encode n
      else i = .mbuild ∨ i = .place ∨ i = .mask ∨ i = .sreset) ∧
    (t.status.fmtd ≠ s.status.fmtd →
      if t.status.fmtd then i = .fmtwr ∨ ∃ n, i = .encode n else i = .mbuild ∨ i = .sreset) ∧
    (t.status.plshort ≠ s.status.plshort →
      if t.status.plshort then i = .place ∨ ∃ n, i = .encode n
      else i = .mbuild ∨ i = .place ∨ (∃ n, i = .encode n) ∨ i = .sreset) ∧
    (t.status.plover ≠ s.status.plover →
      if t.status.plover then i = .place ∨ ∃ n, i = .encode n
      else i = .mbuild ∨ i = .place ∨ (∃ n, i = .encode n) ∨ i = .sreset)

/-- First error wins (R25): 0 after reset; a failing command writes its code only over a 0; only
CLRERR, SRESET and reset write 0; and a non-zero STATUS.ERR does not stop or change a later command
(RDREG 0 reads it, and nothing else does). -/
def Obligations.FirstErrorWins : Prop :=
  State.reset.status.err = .ok ∧
  (∀ (s t : State) (ev : HostEvent) (rest : List HostEvent), s.inputs = ev :: rest →
    (ev = .reset ∨ ∃ w, ev = .resetDuring w) → step s = .next t → t.status.err = .ok) ∧
  ∀ (i : Instr) (s t : State), exec i s = .next t →
    (i = .clrerr ∨ i = .sreset → t.status.err = .ok) ∧
    (s.status.err ≠ .ok → i ≠ .clrerr → i ≠ .sreset → t.status.err = s.status.err) ∧
    (s.status.err = .ok →
      (∃ d : Half, t.responses = answered s d ∧ t.status.err = .ok) ∨
        (t.status.err ≠ .ok ∧ t.responses = s.responses ++ [failWord t.status.err])) ∧
    (i ≠ .rdreg 0#8 → ∀ e : ErrCode,
      ∃ u : State, exec i (withErr s e) = .next u ∧ withErr u .ok = withErr t .ok)

/-! ## Invariants -/

/-- Reset leaves the registers at the values of R231, and every invariant stated below holds there.
That the arrays list nothing is the model's form of "unspecified" (log 3). -/
def Obligations.ResetStateIsGood : Prop :=
  State.reset.status.word = 0#16 ∧ readReg State.reset 10 = some 0x4751#16 ∧
  (∀ n < 10, readReg State.reset n = some 0#16) ∧
  (∀ k < 7, readReg State.reset (16 + k) = some 0#16) ∧
  State.reset.RegistersLegal ∧ State.reset.FlagsConsistent ∧ State.reset.Canonical ∧
  State.reset.Bounded ∧ State.reset.Written ∧ State.reset.TablesBuilt ∧
  State.reset.GeneratorBuilt ∧ structureBuilt State.reset

/-- Every step keeps the registers legal (R22) and the stage flags consistent with them (R24). -/
def Obligations.StepKeepsRegistersLegal : Prop :=
  ∀ s t : State, s.RegistersLegal → s.FlagsConsistent → step s = .next t →
    t.RegistersLegal ∧ t.FlagsConsistent

/-- Every step keeps all seven memories in canonical form. -/
def Obligations.StepKeepsCanonical : Prop :=
  ∀ s t : State, s.Canonical → step s = .next t → t.Canonical

/-- Every step writes only elements that exist in their arrays (R29 to R35). -/
def Obligations.StepKeepsBounded : Prop :=
  ∀ s t : State, s.RegistersLegal → s.FlagsConsistent → s.Bounded → step s = .next t → t.Bounded

/-- Every step keeps written, since reset, every element that the valid flags and counts let a
command read (R64). That no command reads any other element is `StepReadsOnlyReadable`. -/
def Obligations.StepKeepsReadableWritten : Prop :=
  ∀ s t : State, s.RegistersLegal → s.FlagsConsistent → s.Written → step s = .next t → t.Written

/-- A step reads only elements that the valid flags and counts let a command read: two states that
agree on the registers and on those elements answer alike and agree again after the step, whatever
their other elements hold (R41, R64). -/
def Obligations.StepReadsOnlyReadable : Prop :=
  ∀ s s' t : State, s.RegistersLegal → s.FlagsConsistent → Agree s s' → step s = .next t →
    ∃ t', step s' = .next t' ∧ Agree t t'

/-- Every step keeps the structural patterns of the matrix in place and reserved, by whatever route
the matrix is produced and whatever the data (R161, R194, R235). -/
def Obligations.StepKeepsStructure : Prop :=
  ∀ s t : State, s.RegistersLegal → s.FlagsConsistent → structureBuilt s → step s = .next t →
    structureBuilt t

/-- Once built, EXP and LOG hold the powers of 2 and their inverse, and GEN the generator of degree
NEC, after every step (R24, R29, R30, R31). -/
def Obligations.StepKeepsTablesAndGenerator : Prop :=
  ∀ s t : State, s.FlagsConsistent → s.TablesBuilt → s.GeneratorBuilt → step s = .next t →
    t.TablesBuilt ∧ t.GeneratorBuilt

/-! ## Host access -/

/-- NOP, SETVER and CWCLR: encoding, errors, and the whole next state (R91, R92, R96). -/
def Obligations.PlainSettings : Prop :=
  (codedZ 0x00#8 .nop ∧ ∀ s, exec .nop s = .next { s with responses := answered s 0#16 }) ∧
  (codedA 0x01#8 .setver ∧ ∀ v s,
    (v.toNat < 1 ∨ 10 < v.toNat → exec (.setver v) s = .next (failed s .arg)) ∧
    (1 ≤ v.toNat → v.toNat ≤ 10 → exec (.setver v) s = .next { s with
      version := BitVec.ofNat 4 v.toNat
      status := { s.status with verv := true }
      responses := answered s 0#16 })) ∧
  (codedZ 0x05#8 .cwclr ∧ ∀ s, exec .cwclr s = .next { s with
      cwlen := 0#10
      ndata := 0#10
      status := { s.status with ecv := false }
      responses := answered s 0#16 })

/-- SETECL, SETALNC, SETALN and CLRERR: encoding, errors, and the whole next state (R93, R94, R95,
R102). -/
def Obligations.StoredSettings : Prop :=
  (codedA 0x02#8 .setecl ∧ ∀ e s,
    (3 < e.toNat → exec (.setecl e) s = .next (failed s .arg)) ∧
    (e.toNat ≤ 3 → exec (.setecl e) s = .next { s with
      eclbits := BitVec.ofNat 2 e.toNat
      status := { s.status with eclv := true }
      responses := answered s 0#16 })) ∧
  (codedA 0x03#8 .setalnc ∧ ∀ c s,
    (7 < c.toNat → exec (.setalnc c) s = .next (failed s .arg)) ∧
    (c.toNat ≤ 7 → exec (.setalnc c) s = .next { s with
      alncnt := BitVec.ofNat 3 c.toNat
      responses := answered s 0#16 })) ∧
  (codedAB 0x04#8 .setaln ∧ ∀ k p s,
    (6 < k.toNat → exec (.setaln k p) s = .next (failed s .arg)) ∧
    (k.toNat ≤ 6 → ∃ t, exec (.setaln k p) s = .next t ∧
      (∀ j : Fin 7, t.align[j] = if j.val = k.toNat then p else s.align[j]) ∧
      t = { s with align := t.align, responses := answered s 0#16 })) ∧
  (codedZ 0x0B#8 .clrerr ∧ ∀ s, exec .clrerr s = .next { s with
      status := { s.status with err := .ok }
      responses := answered s 0#16 })

/-- CWPUSH b appends one codeword and writes nothing else (R97). -/
def Obligations.CwpushAppends : Prop :=
  codedA 0x06#8 .cwpush ∧ ∀ b s,
    (s.status.ecv = true → exec (.cwpush b) s = .next (failed s .seq)) ∧
    (s.status.ecv = false → s.cwlen.toNat = 512 → exec (.cwpush b) s = .next (failed s .cap)) ∧
    (s.status.ecv = false → s.cwlen.toNat ≠ 512 → ∃ t, exec (.cwpush b) s = .next t ∧
      readCell t.cw s.cwlen.toNat = some b ∧
      (∀ j < s.cwlen.toNat, readCell t.cw j = readCell s.cw j) ∧
      t = { s with cw := t.cw, cwlen := s.cwlen + 1#10, responses := answered s 0#16 })

/-- RDCW, RDMOD and RDRSV return the element they name, zero-extended, and change nothing (R98,
R99, R100). -/
def Obligations.ElementReadBack : Prop :=
  (codedX 0x07#8 .rdcw ∧ ∀ idx s,
    (s.cwlen.toNat ≤ idx.toNat → exec (.rdcw idx) s = .next (failed s .arg)) ∧
    (idx.toNat < s.cwlen.toNat → exec (.rdcw idx) s = .next { s with
      responses := answered s ((readCw s idx.toNat).setWidth 16) })) ∧
  (codedAB 0x08#8 .rdmod ∧ codedAB 0x09#8 .rdrsv ∧ ∀ r c s,
    (s.status.matv = false → exec (.rdmod r c) s = .next (failed s .seq) ∧
      exec (.rdrsv r c) s = .next (failed s .seq)) ∧
    (s.status.matv = true → s.msize.toNat ≤ r.toNat ∨ s.msize.toNat ≤ c.toNat →
      exec (.rdmod r c) s = .next (failed s .arg) ∧
      exec (.rdrsv r c) s = .next (failed s .arg)) ∧
    (s.status.matv = true → r.toNat < s.msize.toNat → c.toNat < s.msize.toNat →
      exec (.rdmod r c) s = .next { s with
        responses := answered s (if readMod s.mod r.toNat c.toNat then 1#16 else 0#16) } ∧
      exec (.rdrsv r c) s = .next { s with
        responses := answered s (if readRsv s.rsv r.toNat c.toNat then 1#16 else 0#16) }))

/-- RDREG n returns register n of R22, zero-extended; STATUS as it was before the command, its
fields at the bits of R24; ERR_ARG where there is no register (R101). -/
def Obligations.RdregReturnsRegister : Prop :=
  codedA 0x0A#8 .rdreg ∧ ∀ s : State,
    (∀ k : Fin 11, exec (.rdreg (BitVec.ofNat 8 k.val)) s = .next { s with
      responses := answered s
        (#v[s.status.word, s.version.setWidth 16, s.eclbits.setWidth 16, s.alncnt.setWidth 16,
          s.cwlen.setWidth 16, s.ndata.setWidth 16, s.nec.setWidth 16, s.msize.setWidth 16,
          s.fmt.setWidth 16, s.plcells.setWidth 16, 0x4751#16][k]) }) ∧
    (∀ k : Fin 7, exec (.rdreg (BitVec.ofNat 8 (16 + k.val))) s = .next { s with
      responses := answered s (s.align[k].setWidth 16) }) ∧
    (∀ n : Byte, (10 < n.toNat ∧ n.toNat < 16) ∨ 22 < n.toNat →
      exec (.rdreg n) s = .next (failed s .arg)) ∧
    (∀ k : Fin 12, s.status.word.getLsbD k.val =
      #v[s.status.tblv, s.status.genv, s.status.ecv, s.status.verv, s.status.eclv, s.status.matv,
        s.status.placed, s.status.masked, s.status.fmtd, s.status.plshort, s.status.plover,
        false][k]) ∧
    s.status.word.extractLsb' 12 4 = (failWord s.status.err).extractLsb' 28 4

/-- SRESET leaves the state of R231, then responds (R103). -/
def Obligations.SresetRestoresReset : Prop :=
  codedZ 0x0C#8 .sreset ∧ ∀ s : State, exec .sreset s = .next { State.reset with
    inputs := s.inputs, responses := answered s 0#16 }

/-! ## Galois field -/

/-- GFINIT leaves in EXP[0..254] the powers of 2 and in LOG[1..255] their inverse, sets TBLV and
changes nothing else (R111, R116). -/
def Obligations.GfinitBuildsTables : Prop :=
  codedZ 0x10#8 .gfinit ∧ ∀ s : State, ∃ t, exec .gfinit s = .next t ∧
    (∀ i < 255, readCell t.exp i = some (gfPower i)) ∧
    (∀ i < 255, readCell t.log (gfPower i).toNat = some (BitVec.ofNat 8 i)) ∧
    t = { s with
      exp := t.exp
      log := t.log
      status := { s.status with tblv := true }
      responses := answered s 0#16 }

/-- The powers of 2: 255 distinct non-zero values, every non-zero byte once, returning to 1 after
255 doublings; EXP[8] = 0x1D (R112 (a) to (d)). -/
def Obligations.PowersOfTwoCycle : Prop :=
  gfPower 255 = 1#8 ∧ gfPower 8 = 0x1D#8 ∧
  (∀ i < 255, gfPower i ≠ 0#8 ∧ ∀ j < 255, gfPower i = gfPower j → i = j) ∧
  (∀ a : Byte, a ≠ 0#8 → ∃ i < 255, gfPower i = a)

/-- GFEXP and GFLOG: encoding, errors, and the element they return; with the tables built, a power
of 2 and its exponent (R118, R119). -/
def Obligations.ExpAndLogLookups : Prop :=
  (codedA 0x12#8 .gfexp ∧ ∀ i s,
    (s.status.tblv = false → exec (.gfexp i) s = .next (failed s .seq)) ∧
    (s.status.tblv = true → i = 255#8 → exec (.gfexp i) s = .next (failed s .arg)) ∧
    (s.status.tblv = true → i ≠ 255#8 → exec (.gfexp i) s = .next { s with
      responses := answered s ((readExp s i.toNat).setWidth 16) }) ∧
    (tabled s → i ≠ 255#8 → readExp s i.toNat = gfPower i.toNat)) ∧
  (codedA 0x13#8 .gflog ∧ ∀ a s,
    (s.status.tblv = false → exec (.gflog a) s = .next (failed s .seq)) ∧
    (s.status.tblv = true → a = 0#8 → exec (.gflog a) s = .next (failed s .arg)) ∧
    (s.status.tblv = true → a ≠ 0#8 → exec (.gflog a) s = .next { s with
      responses := answered s ((readLog s a.toNat).setWidth 16) }) ∧
    (tabled s → a ≠ 0#8 → gfPower (readLog s a.toNat).toNat = a ∧ readLog s a.toNat ≠ 255#8))

/-- GFMUL: encoding, error, and the product by table lookup (R114, R117); with the tables built it
is the carry-less product reduced by 0x11D (R115 (g)). -/
def Obligations.GfmulIsCarrylessProduct : Prop :=
  codedAB 0x11#8 .gfmul ∧ ∀ (a b : Byte) (s : State),
    (s.status.tblv = false → exec (.gfmul a b) s = .next (failed s .seq)) ∧
    (s.status.tblv = true → exec (.gfmul a b) s = .next { s with
      responses := answered s (if a = 0#8 ∨ b = 0#8 then 0#16 else
        (readExp s (((readLog s a.toNat).toNat + (readLog s b.toNat).toNat) % 255)).setWidth
          16) }) ∧
    (tabled s → gfmul s a b = carrylessProduct a b ∧ exec (.gfmul a b) s = .next { s with
      responses := answered s ((carrylessProduct a b).setWidth 16) })

/-- The laws of multiplication: commutative, identity 1, zero, associative, distributive over
exclusive-or, no zero divisors, inverses (R115 (a) to (f)). -/
def Obligations.FieldLaws : Prop :=
  ∀ (s : State), tabled s → ∀ a b c : Byte,
    gfmul s a b = gfmul s b a ∧ gfmul s a 1#8 = a ∧ gfmul s a 0#8 = 0#8 ∧
    gfmul s (gfmul s a b) c = gfmul s a (gfmul s b c) ∧
    gfmul s a (b ^^^ c) = gfmul s a b ^^^ gfmul s a c ∧
    (gfmul s a b = 0#8 → a = 0#8 ∨ b = 0#8) ∧
    (a ≠ 0#8 → gfmul s a (readExp s ((255 - (readLog s a.toNat).toNat) % 255)) = 1#8)

/-! ## Reed-Solomon -/

/-- RSGEN n leaves in GEN[0..n] the generator of degree n by the recurrence of R131, NEC = n, a
register of zeros and GENV set, and writes nothing else (R131, R133). -/
def Obligations.RsgenBuildsGenerator : Prop :=
  codedA 0x20#8 .rsgen ∧ ∀ (n : Byte) (s : State),
    (s.status.tblv = false → exec (.rsgen n) s = .next (failed s .seq)) ∧
    (s.status.tblv = true → n = 0#8 → exec (.rsgen n) s = .next (failed s .arg)) ∧
    (s.status.tblv = true → n ≠ 0#8 → ∃ t, exec (.rsgen n) s = .next t ∧
      (∀ j ≤ n.toNat, readCell t.gen j = some (genCoeff s n.toNat j)) ∧
      (∀ j < n.toNat, readCell t.rem j = some 0#8) ∧
      t = { s with
        gen := t.gen
        rem := t.rem
        nec := n
        status := { s.status with genv := true }
        responses := answered s 0#16 })

/-- RSCLR clears REM[0..NEC-1] (R134), and RSBYTE b is one step of the divider: every slot from the
old register (R135, R136); neither writes anything else. -/
def Obligations.RemainderRegisterSteps : Prop :=
  (codedZ 0x21#8 .rsclr ∧ ∀ s : State,
    (s.status.genv = false → exec .rsclr s = .next (failed s .seq)) ∧
    (s.status.genv = true → ∃ t, exec .rsclr s = .next t ∧
      (∀ j < s.nec.toNat, readCell t.rem j = some 0#8) ∧
      t = { s with rem := t.rem, responses := answered s 0#16 })) ∧
  (codedA 0x22#8 .rsbyte ∧ ∀ (b : Byte) (s : State),
    (s.status.genv = false → exec (.rsbyte b) s = .next (failed s .seq)) ∧
    (s.status.genv = true → ∃ t, exec (.rsbyte b) s = .next t ∧
      (∀ j < s.nec.toNat, readCell t.rem j = some
        ((if j + 1 ≤ s.nec.toNat - 1 then readRem s (j + 1) else 0#8) ^^^
          gfmul s (readGen s (j + 1)) (readRem s 0 ^^^ b))) ∧
      t = { s with rem := t.rem, responses := answered s 0#16 }))

/-- RSENC runs the divider over CW[0..CWLEN-1] from a register of zeros and appends the register to
the buffer, REM[0] going to CW[NDATA]; it writes nothing else (R137). -/
def Obligations.RsencAppendsRemainder : Prop :=
  codedZ 0x23#8 .rsenc ∧ ∀ s : State,
    (s.status.genv = false ∨ s.status.ecv = true → exec .rsenc s = .next (failed s .seq)) ∧
    (s.status.genv = true → s.status.ecv = false → 512 < s.cwlen.toNat + s.nec.toNat →
      exec .rsenc s = .next (failed s .cap)) ∧
    (s.status.genv = true → s.status.ecv = false → s.cwlen.toNat + s.nec.toNat ≤ 512 →
      ∃ t, exec .rsenc s = .next t ∧
        (∀ j < s.nec.toNat, readCell t.rem j = some (remAfter s s.cwlen.toNat j) ∧
          readCell t.cw (s.cwlen.toNat + j) = some (remAfter s s.cwlen.toNat j)) ∧
        (∀ j < s.cwlen.toNat, readCell t.cw j = readCell s.cw j) ∧
        t.cwlen.toNat = s.cwlen.toNat + s.nec.toNat ∧
        t = { s with
          cw := t.cw
          rem := t.rem
          ndata := s.cwlen
          cwlen := t.cwlen
          status := { s.status with ecv := true }
          responses := answered s 0#16 })

/-- RDGEN j and RDREM j return the element they name (R138, R139). -/
def Obligations.PolynomialReadBack : Prop :=
  (codedA 0x24#8 .rdgen ∧ ∀ j s,
    (s.status.genv = false → exec (.rdgen j) s = .next (failed s .seq)) ∧
    (s.status.genv = true → s.nec.toNat < j.toNat →
      exec (.rdgen j) s = .next (failed s .arg)) ∧
    (s.status.genv = true → j.toNat ≤ s.nec.toNat → exec (.rdgen j) s = .next { s with
      responses := answered s ((readGen s j.toNat).setWidth 16) })) ∧
  (codedA 0x25#8 .rdrem ∧ ∀ j s,
    (s.status.genv = false → exec (.rdrem j) s = .next (failed s .seq)) ∧
    (s.status.genv = true → s.nec.toNat ≤ j.toNat →
      exec (.rdrem j) s = .next (failed s .arg)) ∧
    (s.status.genv = true → j.toNat < s.nec.toNat → exec (.rdrem j) s = .next { s with
      responses := answered s ((readRem s j.toNat).setWidth 16) }))

/-- The generator RSGEN n builds is monic, its constant term is the product of the roots, and its
roots are EXP[0], ..., EXP[n-1] (R132 (a) to (c)). -/
def Obligations.GeneratorHasItsRoots : Prop :=
  ∀ (n : Byte) (s : State), tabled s → n ≠ 0#8 → ∃ t, exec (.rsgen n) s = .next t ∧
    readGen t 0 = 1#8 ∧
    readGen t n.toNat = readExp t ((n.toNat * (n.toNat - 1) / 2) % 255) ∧
    readGen t n.toNat ≠ 0#8 ∧
    ∀ i < n.toNat,
      polyValue t ((List.range (n.toNat + 1)).map (readGen t)) (readExp t i) = 0#8

/-- The remainder identity: after RSENC the codeword polynomial is zero at every root of the
generator, whatever the length of the block (R140, R141). -/
def Obligations.CodewordSyndromesAreZero : Prop :=
  ∀ s : State, tabled s → s.status.genv = true → s.GeneratorBuilt → s.status.ecv = false →
    s.cwlen.toNat + s.nec.toNat ≤ 512 → ∃ t, exec .rsenc s = .next t ∧
      ∀ i < s.nec.toNat,
        polyValue t ((List.range t.cwlen.toNat).map (readCw t)) (readExp t i) = 0#8

/-! ## Matrix builder -/

/-- MBUILD: encoding, errors, the registers and flags it writes, and its frame (R150). That cells
outside the matrix keep their last value is the model's choice (log 5). -/
def Obligations.MbuildWritesRegisters : Prop :=
  codedZ 0x30#8 .mbuild ∧ ∀ s : State,
    (s.status.verv = false → exec .mbuild s = .next (failed s .seq)) ∧
    (s.status.verv = true → ¬ alignLegal s → exec .mbuild s = .next (failed s .arg)) ∧
    (s.status.verv = true → alignLegal s → ∃ t, exec .mbuild s = .next t ∧
      (s.version.toNat ≤ 10 → t.msize.toNat = sideOf s) ∧
      (∀ r c, c < 256 → sideOf s ≤ r ∨ sideOf s ≤ c →
        readGrid t.mod r c = readGrid s.mod r c ∧ readGrid t.rsv r c = readGrid s.rsv r c) ∧
      t = { s with
        mod := t.mod
        rsv := t.rsv
        msize := t.msize
        plcells := 0#12
        status := { s.status with
          matv := true, placed := false, masked := false, fmtd := false, plshort := false,
          plover := false }
        responses := answered s 0#16 })

/-- After MBUILD, for every version and every legal alignment list, the finder patterns, their
separators, both timing patterns and the dark module are as R153 to R155 and R158 give them and
reserved, the format cells of R159 are reserved, every cell of the matrix has been written, and
every free cell is light (R160, R161). -/
def Obligations.MbuildStructuralPatterns : Prop :=
  ∀ s : State, versionSet s → alignLegal s → ∃ t, exec .mbuild s = .next t ∧
    ∀ r < sideOf s, ∀ c < sideOf s,
      (readGrid t.mod r c).isSome ∧ (readGrid t.rsv r c).isSome ∧
      (readGrid t.rsv r c = some false → readGrid t.mod r c = some false) ∧
      (structural (sideOf s) r c ∨ (r = sideOf s - 8 ∧ c = 8) →
        readGrid t.mod r c = some (bareModule (sideOf s) r c) ∧
        readGrid t.rsv r c = some true) ∧
      (formatReserved (sideOf s) r c → readGrid t.rsv r c = some true)

/-- For every version and every legal alignment list, MBUILD leaves in every cell of the matrix the
module and the reserved flag of R152 to R159: alignment patterns at the pairs that overlap nothing
reserved before them, taken in list order, and the bare matrix elsewhere (R151, R156, R157). That a
pattern is stamped over format cells and over (8, size-1), which R159 and R198 call light, when the
list holds 9 or 10, is the model's choice (log 11); of R159 only the reserved flags are stated. -/
def Obligations.MbuildWholeMatrix : Prop :=
  ∀ s : State, versionSet s → alignLegal s → ∃ t, exec .mbuild s = .next t ∧
    ∀ r < sideOf s, ∀ c < sideOf s,
      (∀ p ∈ placedCentres (sideOf s) (alignPairs s), covers p r c →
        readGrid t.mod r c = some (alignModule p r c || decide (r = sideOf s - 8 ∧ c = 8)) ∧
        readGrid t.rsv r c = some true) ∧
      ((∀ p ∈ placedCentres (sideOf s) (alignPairs s), ¬ covers p r c) →
        readGrid t.mod r c = some (bareModule (sideOf s) r c) ∧
        (readGrid t.rsv r c = some true ↔ bareReserved (sideOf s) r c) ∧
        (readGrid t.rsv r c).isSome)

/-- MBUILD's result is a function of VERSION, ALNCNT and ALIGN[0..ALNCNT-1] only, and at version 1
of VERSION only (R161). -/
def Obligations.MbuildDependsOnItsInputs : Prop :=
  ∀ s s' t t' : State, s.version = s'.version →
    (2 ≤ s.version.toNat → s.alncnt = s'.alncnt ∧
      ∀ k : Fin 7, k.val < s.alncnt.toNat → s.align[k] = s'.align[k]) →
    s.status.verv = true → s'.status.verv = true → alignLegal s →
    exec .mbuild s = .next t → exec .mbuild s' = .next t' →
      t.msize = t'.msize ∧ ∀ r < sideOf s, ∀ c < sideOf s,
        readGrid t.mod r c = readGrid t'.mod r c ∧ readGrid t.rsv r c = readGrid t'.rsv r c

/-! ## Placement and mask -/

/-- The traversal machine walks the lanes: at every legal size it makes exactly `size * (size - 1)`
steps, visits the cells in lane order, every cell outside column 6 once, and then reports done
(R171, R172, R174). -/
def Obligations.TraversalWalksLanes : Prop :=
  ∀ size : Nat, legalSize size →
    (List.range (size * (size - 1))).map
      (fun n => ((advanced size n).row size, (advanced size n).col)) = laneOrder size ∧
    (∀ n < size * (size - 1), (advanced size n).done = false) ∧
    (advanced size (size * (size - 1))).done = true ∧
    (laneOrder size).Nodup ∧
    ∀ r c, (r, c) ∈ laneOrder size ↔ r < size ∧ c < size ∧ c ≠ 6

/-- PLACE gives the k-th free cell in lane order bit k of the codeword stream, 0 once the bits are
exhausted, writes no other cell, and reports the count and the mismatch (R170, R173, R175, R176,
R177, R178). That cells outside the matrix keep their last value is the model's choice (log 5). -/
def Obligations.PlaceFillsFreeCells : Prop :=
  codedZ 0x40#8 .place ∧ ∀ s : State,
    (s.status.matv = false → exec .place s = .next (failed s .seq)) ∧
    (s.status.matv = true → legalSize s.msize.toNat → ∃ t, exec .place s = .next t ∧
      (∀ k : Fin (freeCells s).length,
        readGrid t.mod (freeCells s)[k].1 (freeCells s)[k].2 = some (streamBit s k.val)) ∧
      (∀ r c, c < 256 → (r, c) ∉ freeCells s → readGrid t.mod r c = readGrid s.mod r c) ∧
      t.plcells.toNat = (freeCells s).length ∧
      t = { s with
        mod := t.mod
        plcells := t.plcells
        status := { s.status with
          placed := true, masked := false
          plshort := decide (8 * s.cwlen.toNat < (freeCells s).length)
          plover := decide ((freeCells s).length < 8 * s.cwlen.toNat) }
        responses := answered s 0#16 })

/-- Data placement and masking never touch a reserved cell (R235, R179 (a), R185), in any state.
That this holds of cells outside the matrix too is the model's choice (log 5). -/
def Obligations.ReservedCellsUntouched : Prop :=
  ∀ (i : Instr) (s t : State), i = .place ∨ i = .mask → exec i s = .next t →
    t.rsv = s.rsv ∧ ∀ r c, c < 256 → readRsv s.rsv r c = true →
      readGrid t.mod r c = readGrid s.mod r c

/-- MASK flips the free cells with `r + c` even and no other cell, and toggles MASKED (R185,
R186). -/
def Obligations.MaskFlipsCheckerboard : Prop :=
  codedZ 0x50#8 .mask ∧ ∀ s : State,
    (s.status.matv = false → exec .mask s = .next (failed s .seq)) ∧
    (s.status.matv = true → ∃ t, exec .mask s = .next t ∧
      (∀ r < s.msize.toNat, ∀ c < s.msize.toNat, readMod t.mod r c =
        if readRsv s.rsv r c = false ∧ (r + c) % 2 = 0 then !readMod s.mod r c
        else readMod s.mod r c) ∧
      t = { s with
        mod := t.mod
        status := { s.status with masked := !s.status.masked }
        responses := answered s 0#16 })

/-- Two MASK commands in succession restore every module and the flag (R187 (a)). That cells outside
the matrix keep their last value is the model's choice (log 5). -/
def Obligations.MaskIsInvolution : Prop :=
  ∀ s : State, s.status.matv = true → ∃ t u, exec .mask s = .next t ∧ exec .mask t = .next u ∧
    (∀ r c, c < 256 → readMod u.mod r c = readMod s.mod r c) ∧
    u = { s with mod := u.mod, responses := s.responses ++ [0#32, 0#32] }

/-- MASK commutes with FMTWR where the strips are reserved, as they are while `structureBuilt` holds
(R187 (b)). That cells outside the matrix keep their last value is the model's choice (log 5). -/
def Obligations.MaskCommutesWithFmtwr : Prop :=
  ∀ s : State, s.status.matv = true → s.status.eclv = true →
    (∀ p ∈ strip1 s.msize.toNat ++ strip2 s.msize.toNat, readRsv s.rsv p.1 p.2 = true) →
    ∃ t u t' u', exec .mask s = .next t ∧ exec .fmtwr t = .next u ∧
      exec .fmtwr s = .next t' ∧ exec .mask t' = .next u' ∧
      (∀ r c, c < 256 → readMod u.mod r c = readMod u'.mod r c) ∧ u = { u' with mod := u.mod }

/-- An element that a command does not write keeps the value last written, also outside the range
in which the spec defines it: the model's choice (log 5), which no command can observe. -/
def Obligations.OtherElementsKept : Prop :=
  ∀ s t : State,
    (∀ b, exec (.cwpush b) s = .next t → ∀ j, j ≠ s.cwlen.toNat →
      readCell t.cw j = readCell s.cw j) ∧
    (exec .gfinit s = .next t →
      (∀ i, 255 ≤ i → readCell t.exp i = readCell s.exp i) ∧
      (∀ a, a = 0 ∨ 256 ≤ a → readCell t.log a = readCell s.log a)) ∧
    (∀ n, exec (.rsgen n) s = .next t →
      (∀ j, n.toNat < j → readCell t.gen j = readCell s.gen j) ∧
      (∀ j, n.toNat ≤ j → readCell t.rem j = readCell s.rem j)) ∧
    (∀ i : Instr, i = .rsclr ∨ (∃ b, i = .rsbyte b) ∨ i = .rsenc → exec i s = .next t →
      ∀ j, s.nec.toNat ≤ j → readCell t.rem j = readCell s.rem j) ∧
    (exec .rsenc s = .next t → ∀ j, s.cwlen.toNat + s.nec.toNat ≤ j →
      readCell t.cw j = readCell s.cw j) ∧
    (∀ i : Instr, i = .place ∨ i = .mask → exec i s = .next t →
      ∀ r c, c < 256 → s.msize.toNat ≤ r ∨ s.msize.toNat ≤ c →
        readGrid t.mod r c = readGrid s.mod r c)

/-! ## Format information -/

/-- BCHENC f returns the 15-bit word of R191: the word with the fixed mask removed has field `f` on
top and is a multiple of the generator 0x537, which only one word is; and dividing the word itself
leaves 0x255 (R191, R193, R199). -/
def Obligations.BchencReturnsWord : Prop :=
  codedA 0x60#8 .bchenc ∧ ∀ (f : Byte) (s : State),
    (31 < f.toNat → exec (.bchenc f) s = .next (failed s .arg)) ∧
    (f.toNat ≤ 31 → ∃ w : BitVec 15,
      exec (.bchenc f) s = .next { s with responses := answered s (w.setWidth 16) } ∧
      (w ^^^ 0x5412#15) >>> 10 = BitVec.ofNat 15 f.toNat ∧
      (∃ q, w ^^^ 0x5412#15 = bchMultiple q) ∧ ∃ q, w = bchMultiple q ^^^ 0x255#15)

/-- FMTWR writes the format word of ECLBITS, bit 14 first, into the two strips and into FMT, sets
FMTD and writes no other cell (R192, R194, R195, R196). That cells outside the matrix keep their
last value is the model's choice (log 5). -/
def Obligations.FmtwrWritesStrips : Prop :=
  codedZ 0x61#8 .fmtwr ∧ ∀ s : State,
    (s.status.matv = false ∨ s.status.eclv = false → exec .fmtwr s = .next (failed s .seq)) ∧
    (s.status.matv = true → s.status.eclv = true → legalSize s.msize.toNat →
      ∃ t, exec .fmtwr s = .next t ∧
        (∀ k : Fin 15, ∀ p : Nat × Nat,
          (strip1 s.msize.toNat)[k.val]? = some p ∨ (strip2 s.msize.toNat)[k.val]? = some p →
            readGrid t.mod p.1 p.2 = some ((formatWord s.eclbits).getLsbD (14 - k.val))) ∧
        (∀ r c, c < 256 → (r, c) ∉ strip1 s.msize.toNat ++ strip2 s.msize.toNat →
          readGrid t.mod r c = readGrid s.mod r c) ∧
        t = { s with
          mod := t.mod
          fmt := formatWord s.eclbits
          status := { s.status with fmtd := true }
          responses := answered s 0#16 })

/-! ## The whole pipeline -/

/-- When its checks pass, the six stage commands issued one by one all succeed with response 0, and
ENCODE n leaves exactly the state that they leave, with one response 0 in place of the six (R205,
R206, R207). -/
def Obligations.EncodeIsSixCommands : Prop :=
  ∀ (n : Byte) (s : State), encodeReady n s →
    ∃ s1 s2 s3 s4 s5 s6 t : State,
      exec (.rsgen n) s = .next s1 ∧ exec .rsenc s1 = .next s2 ∧ exec .mbuild s2 = .next s3 ∧
      exec .place s3 = .next s4 ∧ exec .mask s4 = .next s5 ∧ exec .fmtwr s5 = .next s6 ∧
      s6.responses = s.responses ++ List.replicate 6 0#32 ∧
      exec (.encode n) s = .next t ∧ t = { s6 with responses := answered s 0#16 }

/-- ENCODE n: encoding, the checks of R206 in the priority of R213, and the registers of R207 when
they pass. -/
def Obligations.EncodeChecksAndRegisters : Prop :=
  codedA 0x70#8 .encode ∧ ∀ (n : Byte) (s : State),
    (s.status.tblv = false ∨ s.status.verv = false ∨ s.status.eclv = false ∨
      s.status.ecv = true → exec (.encode n) s = .next (failed s .seq)) ∧
    (s.status.tblv = true → s.status.verv = true → s.status.eclv = true →
      s.status.ecv = false →
      (n = 0#8 ∨ ¬ alignLegal s → exec (.encode n) s = .next (failed s .arg)) ∧
      (n ≠ 0#8 → alignLegal s → 512 < s.cwlen.toNat + n.toNat →
        exec (.encode n) s = .next (failed s .cap))) ∧
    (encodeReady n s → s.version.toNat ≤ 10 → ∃ t, exec (.encode n) s = .next t ∧
      t.nec = n ∧ t.ndata = s.cwlen ∧ t.cwlen.toNat = s.cwlen.toNat + n.toNat ∧
      t.msize.toNat = sideOf s ∧ t.fmt = formatWord s.eclbits ∧
      t = { s with
        gen := t.gen
        rem := t.rem
        cw := t.cw
        mod := t.mod
        rsv := t.rsv
        nec := n
        ndata := s.cwlen
        cwlen := t.cwlen
        msize := t.msize
        plcells := t.plcells
        fmt := t.fmt
        status := { s.status with
          genv := true, ecv := true, matv := true, placed := true, masked := true, fmtd := true
          plshort := t.status.plshort
          plover := t.status.plover }
        responses := answered s 0#16 })

/-- In every matrix ENCODE produces, whatever the data, the three finder patterns, their separators
and both timing patterns are present, unmodified and marked reserved (R161). -/
def Obligations.EncodeKeepsStructure : Prop :=
  ∀ (n : Byte) (s : State), encodeReady n s → versionSet s →
    ∃ t, exec (.encode n) s = .next t ∧
      ∀ r < sideOf s, ∀ c < sideOf s, structural (sideOf s) r c →
        readGrid t.mod r c = some (bareModule (sideOf s) r c) ∧ readGrid t.rsv r c = some true

/-- ENCODE's result is a function of VERSION, ECLBITS, ALNCNT, ALIGN, n and CW[0..CWLEN-1] alone,
given the tables: two states that agree on those get the same generator, remainder, codewords,
matrix, registers, mismatch flags and response (R208). -/
def Obligations.EncodeIsDeterministic : Prop :=
  ∀ (n : Byte) (s s' : State), encodeReady n s → encodeReady n s' → versionSet s →
    tabled s → tabled s' → s.version = s'.version → s.eclbits = s'.eclbits →
    s.alncnt = s'.alncnt → (∀ k : Fin 7, k.val < s.alncnt.toNat → s.align[k] = s'.align[k]) →
    s.cwlen = s'.cwlen → (∀ i < s.cwlen.toNat, readCw s i = readCw s' i) →
    ∃ t t', exec (.encode n) s = .next t ∧ exec (.encode n) s' = .next t' ∧
      t.responses = answered s 0#16 ∧ t'.responses = answered s' 0#16 ∧
      t.msize = t'.msize ∧ t.fmt = t'.fmt ∧ t.plcells = t'.plcells ∧ t.cwlen = t'.cwlen ∧
      t.ndata = t'.ndata ∧ t.nec = t'.nec ∧
      { t.status with err := .ok } = { t'.status with err := .ok } ∧
      (∀ j ≤ n.toNat, readGen t j = readGen t' j) ∧ (∀ j < n.toNat, readRem t j = readRem t' j) ∧
      (∀ i < t.cwlen.toNat, readCw t i = readCw t' i) ∧
      ∀ r < sideOf s, ∀ c < sideOf s,
        readGrid t.mod r c = readGrid t'.mod r c ∧ readGrid t.rsv r c = readGrid t'.rsv r c
end

