-- ==== Sys2Proof/Laws/Cells.lean ====
section
/-!
SUPPORT. The laws of the memories: a read after a write, what a write leaves alone, and that every
write keeps the canonical form.
-/

namespace Sys2Proof.Machine

variable {α : Type}

@[simp] theorem readCell_nil (a : Nat) : readCell ([] : Cells α) a = none := rfl

theorem readCell_cons (k : Nat) (v : α) (m : Cells α) (a : Nat) :
    readCell ((k, v) :: m) a = if a = k then some v else readCell m a := rfl

/-- A read after a write gives the value written at that index and the old value elsewhere. -/
theorem readCell_writeCell (m : Cells α) (a b : Nat) (v : α) :
    readCell (writeCell m a v) b = if b = a then some v else readCell m b := by
  induction m with
  | nil => simp [writeCell, readCell_cons]
  | cons p m ih =>
    obtain ⟨k, w⟩ := p
    simp only [writeCell]
    split
    · simp [readCell_cons]
    · split
      · subst k; by_cases h : b = a <;> simp [readCell_cons, h]
      · rw [readCell_cons, ih, readCell_cons]
        split <;> split <;> first | rfl | omega

@[simp] theorem readCell_writeCell_same (m : Cells α) (a : Nat) (v : α) :
    readCell (writeCell m a v) a = some v := by simp [readCell_writeCell]

theorem readCell_writeCell_other (m : Cells α) {a b : Nat} (v : α) (h : b ≠ a) :
    readCell (writeCell m a v) b = readCell m b := by simp [readCell_writeCell, h]

/-- An index listed after a write is the one written or was listed before. -/
theorem mem_writeCell {m : Cells α} {a : Nat} {v : α} {p : Nat × α} (h : p ∈ writeCell m a v) :
    p.1 = a ∨ p ∈ m := by
  induction m with
  | nil => simp_all [writeCell]
  | cons q m ih =>
    simp only [writeCell] at h
    split at h
    · simp only [List.mem_cons] at h ⊢; rcases h with rfl | h <;> simp_all
    · split at h
      · simp only [List.mem_cons] at h ⊢; rcases h with rfl | h <;> simp_all
      · simp only [List.mem_cons] at h ⊢
        rcases h with h | h
        · exact .inr (.inl h)
        · exact (ih h).imp_right .inr

/-- A write keeps the canonical form. -/
theorem wf_writeCell {m : Cells α} (h : Memory.wf m) (a : Nat) (v : α) :
    Memory.wf (writeCell m a v) := by
  induction m with
  | nil => simp [writeCell, Memory.wf]
  | cons p m ih =>
    obtain ⟨k, w⟩ := p
    obtain ⟨hk, hm⟩ := List.pairwise_cons.1 h
    simp only [writeCell]
    split
    · next hlt =>
      refine List.pairwise_cons.2 ⟨fun q hq => ?_, h⟩
      rcases List.mem_cons.1 hq with rfl | hq
      · exact hlt
      · exact Nat.lt_trans hlt (hk q hq)
    · split
      · next heq => subst heq; exact List.pairwise_cons.2 ⟨hk, hm⟩
      · refine List.pairwise_cons.2 ⟨fun q hq => ?_, ih hm⟩
        rcases mem_writeCell hq with hq | hq
        · simp only [hq]; omega
        · exact hk q hq

/-- Consecutive writes: inside the range the list's elements, outside the old ones. -/
theorem readCell_writeList (vs : List α) (m : Cells α) (a b : Nat) :
    readCell (writeList m a vs) b =
      if a ≤ b ∧ b < a + vs.length then vs[b - a]? else readCell m b := by
  induction vs generalizing m a with
  | nil => simp [writeList]
  | cons v vs ih =>
    rw [writeList, ih, List.length_cons, readCell_writeCell]
    by_cases h1 : b = a
    · subst h1
      simp
    · by_cases h2 : a + 1 ≤ b ∧ b < a + 1 + vs.length
      · rw [if_pos h2, if_pos (by omega), show b - a = b - (a + 1) + 1 by omega]
        simp
      · rw [if_neg h2, if_neg h1, if_neg (by omega)]

theorem wf_writeList (vs : List α) {m : Cells α} (h : Memory.wf m) (a : Nat) :
    Memory.wf (writeList m a vs) := by
  induction vs generalizing m a with
  | nil => exact h
  | cons v vs ih => exact ih (wf_writeCell h a v) (a + 1)

theorem mem_writeList {vs : List α} {m : Cells α} {a : Nat} {p : Nat × α}
    (h : p ∈ writeList m a vs) : (a ≤ p.1 ∧ p.1 < a + vs.length) ∨ p ∈ m := by
  induction vs generalizing m a with
  | nil => exact .inr h
  | cons v vs ih =>
    rw [List.length_cons]
    rcases ih h with h | h
    · exact .inl (by omega)
    · rcases mem_writeCell h with h | h
      · exact .inl (by omega)
      · exact .inr h

/-- Distinct cells have distinct indexes while columns are bytes. -/
theorem cellIndex_inj {r c r' c' : Nat} (hc : c < 256) (hc' : c' < 256) :
    cellIndex r c = cellIndex r' c' ↔ r = r' ∧ c = c' := by
  unfold cellIndex; omega

/-- One cell of a grid after a write of one cell. -/
theorem readGrid_writeGrid (g : Grid) {r c r' c' : Nat} (v : Bool) (hc : c < 256)
    (hc' : c' < 256) :
    readGrid (writeGrid g r c v) r' c' = if r' = r ∧ c' = c then some v else readGrid g r' c' := by
  simp only [readGrid, writeGrid, readCell_writeCell, cellIndex_inj hc' hc]

theorem wf_writeGrid {g : Grid} (h : Memory.wf g) (r c : Nat) (v : Bool) :
    Memory.wf (writeGrid g r c v) := wf_writeCell h _ v

/-- A fold of steps each of which keeps a property keeps it. -/
theorem foldl_keeps {β γ : Type} {P : β → Prop} {f : β → γ → β} {l : List γ} {b : β}
    (hb : P b) (hf : ∀ b, P b → ∀ c ∈ l, P (f b c)) : P (l.foldl f b) := by
  induction l generalizing b with
  | nil => exact hb
  | cons c l ih =>
    exact ih (hf b hb c (by simp)) fun b hb c hc => hf b hb c (by simp [hc])

theorem mem_block {r0 c0 h w : Nat} {p : Nat × Nat} :
    p ∈ block r0 c0 h w ↔ (r0 ≤ p.1 ∧ p.1 < r0 + h) ∧ c0 ≤ p.2 ∧ p.2 < c0 + w := by
  obtain ⟨r, c⟩ := p
  simp only [block, List.mem_flatMap, List.mem_map, List.mem_range, Prod.mk.injEq]
  constructor
  · rintro ⟨i, hi, j, hj, rfl, rfl⟩; omega
  · intro hrc
    exact ⟨r - r0, by omega, c - c0, by omega, by omega, by omega⟩

/-- A memory listed as a function of its indexes reads as that function. -/
theorem readCell_map {f : Nat → α} {l : List Nat} {a : Nat} (h : a ∈ l) :
    readCell (l.map fun k => (k, f k)) a = some (f a) := by
  induction l with
  | nil => cases h
  | cons k rest ih =>
    by_cases hk : a = k
    · simp [readCell, hk]
    · simpa [readCell, hk] using ih ((List.mem_cons.1 h).resolve_left hk)

end Sys2Proof.Machine
end

