-- ==== Sys2Proof/Laws/State.lean ====
section
/-!
SUPPORT. The small lemmas of State: what each named update leaves in each field.
-/

namespace Sys2Proof.Machine

@[simp] theorem State.emit_status (s : State) (w : Word) : (s.emit w).status = s.status := rfl
@[simp] theorem State.emit_version (s : State) (w : Word) : (s.emit w).version = s.version := rfl
@[simp] theorem State.emit_eclbits (s : State) (w : Word) : (s.emit w).eclbits = s.eclbits := rfl
@[simp] theorem State.emit_alncnt (s : State) (w : Word) : (s.emit w).alncnt = s.alncnt := rfl
@[simp] theorem State.emit_cwlen (s : State) (w : Word) : (s.emit w).cwlen = s.cwlen := rfl
@[simp] theorem State.emit_ndata (s : State) (w : Word) : (s.emit w).ndata = s.ndata := rfl
@[simp] theorem State.emit_nec (s : State) (w : Word) : (s.emit w).nec = s.nec := rfl
@[simp] theorem State.emit_msize (s : State) (w : Word) : (s.emit w).msize = s.msize := rfl
@[simp] theorem State.emit_fmt (s : State) (w : Word) : (s.emit w).fmt = s.fmt := rfl
@[simp] theorem State.emit_plcells (s : State) (w : Word) : (s.emit w).plcells = s.plcells := rfl
@[simp] theorem State.emit_align (s : State) (w : Word) : (s.emit w).align = s.align := rfl
@[simp] theorem State.emit_exp (s : State) (w : Word) : (s.emit w).exp = s.exp := rfl
@[simp] theorem State.emit_log (s : State) (w : Word) : (s.emit w).log = s.log := rfl
@[simp] theorem State.emit_gen (s : State) (w : Word) : (s.emit w).gen = s.gen := rfl
@[simp] theorem State.emit_rem (s : State) (w : Word) : (s.emit w).rem = s.rem := rfl
@[simp] theorem State.emit_cw (s : State) (w : Word) : (s.emit w).cw = s.cw := rfl
@[simp] theorem State.emit_mod (s : State) (w : Word) : (s.emit w).mod = s.mod := rfl
@[simp] theorem State.emit_rsv (s : State) (w : Word) : (s.emit w).rsv = s.rsv := rfl
@[simp] theorem State.emit_inputs (s : State) (w : Word) : (s.emit w).inputs = s.inputs := rfl
@[simp] theorem State.emit_responses (s : State) (w : Word) :
    (s.emit w).responses = s.responses ++ [w] := rfl

@[simp] theorem State.latch_status (s : State) (e : ErrCode) :
    (s.latch e).status = { s.status with err := if s.status.err = .ok then e else s.status.err } := rfl
@[simp] theorem State.latch_version (s : State) (e : ErrCode) :
    (s.latch e).version = s.version := rfl
@[simp] theorem State.latch_eclbits (s : State) (e : ErrCode) :
    (s.latch e).eclbits = s.eclbits := rfl
@[simp] theorem State.latch_alncnt (s : State) (e : ErrCode) : (s.latch e).alncnt = s.alncnt := rfl
@[simp] theorem State.latch_cwlen (s : State) (e : ErrCode) : (s.latch e).cwlen = s.cwlen := rfl
@[simp] theorem State.latch_ndata (s : State) (e : ErrCode) : (s.latch e).ndata = s.ndata := rfl
@[simp] theorem State.latch_nec (s : State) (e : ErrCode) : (s.latch e).nec = s.nec := rfl
@[simp] theorem State.latch_msize (s : State) (e : ErrCode) : (s.latch e).msize = s.msize := rfl
@[simp] theorem State.latch_fmt (s : State) (e : ErrCode) : (s.latch e).fmt = s.fmt := rfl
@[simp] theorem State.latch_plcells (s : State) (e : ErrCode) :
    (s.latch e).plcells = s.plcells := rfl
@[simp] theorem State.latch_align (s : State) (e : ErrCode) : (s.latch e).align = s.align := rfl
@[simp] theorem State.latch_exp (s : State) (e : ErrCode) : (s.latch e).exp = s.exp := rfl
@[simp] theorem State.latch_log (s : State) (e : ErrCode) : (s.latch e).log = s.log := rfl
@[simp] theorem State.latch_gen (s : State) (e : ErrCode) : (s.latch e).gen = s.gen := rfl
@[simp] theorem State.latch_rem (s : State) (e : ErrCode) : (s.latch e).rem = s.rem := rfl
@[simp] theorem State.latch_cw (s : State) (e : ErrCode) : (s.latch e).cw = s.cw := rfl
@[simp] theorem State.latch_mod (s : State) (e : ErrCode) : (s.latch e).mod = s.mod := rfl
@[simp] theorem State.latch_rsv (s : State) (e : ErrCode) : (s.latch e).rsv = s.rsv := rfl
@[simp] theorem State.latch_inputs (s : State) (e : ErrCode) : (s.latch e).inputs = s.inputs := rfl
@[simp] theorem State.latch_responses (s : State) (e : ErrCode) :
    (s.latch e).responses = s.responses := rfl

@[simp] theorem State.dequeue_status (s : State) : (s.dequeue).status = s.status := rfl
@[simp] theorem State.dequeue_version (s : State) : (s.dequeue).version = s.version := rfl
@[simp] theorem State.dequeue_eclbits (s : State) : (s.dequeue).eclbits = s.eclbits := rfl
@[simp] theorem State.dequeue_alncnt (s : State) : (s.dequeue).alncnt = s.alncnt := rfl
@[simp] theorem State.dequeue_cwlen (s : State) : (s.dequeue).cwlen = s.cwlen := rfl
@[simp] theorem State.dequeue_ndata (s : State) : (s.dequeue).ndata = s.ndata := rfl
@[simp] theorem State.dequeue_nec (s : State) : (s.dequeue).nec = s.nec := rfl
@[simp] theorem State.dequeue_msize (s : State) : (s.dequeue).msize = s.msize := rfl
@[simp] theorem State.dequeue_fmt (s : State) : (s.dequeue).fmt = s.fmt := rfl
@[simp] theorem State.dequeue_plcells (s : State) : (s.dequeue).plcells = s.plcells := rfl
@[simp] theorem State.dequeue_align (s : State) : (s.dequeue).align = s.align := rfl
@[simp] theorem State.dequeue_exp (s : State) : (s.dequeue).exp = s.exp := rfl
@[simp] theorem State.dequeue_log (s : State) : (s.dequeue).log = s.log := rfl
@[simp] theorem State.dequeue_gen (s : State) : (s.dequeue).gen = s.gen := rfl
@[simp] theorem State.dequeue_rem (s : State) : (s.dequeue).rem = s.rem := rfl
@[simp] theorem State.dequeue_cw (s : State) : (s.dequeue).cw = s.cw := rfl
@[simp] theorem State.dequeue_mod (s : State) : (s.dequeue).mod = s.mod := rfl
@[simp] theorem State.dequeue_rsv (s : State) : (s.dequeue).rsv = s.rsv := rfl
@[simp] theorem State.dequeue_inputs (s : State) : (s.dequeue).inputs = s.inputs.tail := rfl
@[simp] theorem State.dequeue_responses (s : State) : (s.dequeue).responses = s.responses := rfl

@[simp] theorem State.restart_status (s : State) : (s.restart).status = State.reset.status := rfl
@[simp] theorem State.restart_version (s : State) : (s.restart).version = State.reset.version := rfl
@[simp] theorem State.restart_eclbits (s : State) : (s.restart).eclbits = State.reset.eclbits := rfl
@[simp] theorem State.restart_alncnt (s : State) : (s.restart).alncnt = State.reset.alncnt := rfl
@[simp] theorem State.restart_cwlen (s : State) : (s.restart).cwlen = State.reset.cwlen := rfl
@[simp] theorem State.restart_ndata (s : State) : (s.restart).ndata = State.reset.ndata := rfl
@[simp] theorem State.restart_nec (s : State) : (s.restart).nec = State.reset.nec := rfl
@[simp] theorem State.restart_msize (s : State) : (s.restart).msize = State.reset.msize := rfl
@[simp] theorem State.restart_fmt (s : State) : (s.restart).fmt = State.reset.fmt := rfl
@[simp] theorem State.restart_plcells (s : State) : (s.restart).plcells = State.reset.plcells := rfl
@[simp] theorem State.restart_align (s : State) : (s.restart).align = State.reset.align := rfl
@[simp] theorem State.restart_exp (s : State) : (s.restart).exp = State.reset.exp := rfl
@[simp] theorem State.restart_log (s : State) : (s.restart).log = State.reset.log := rfl
@[simp] theorem State.restart_gen (s : State) : (s.restart).gen = State.reset.gen := rfl
@[simp] theorem State.restart_rem (s : State) : (s.restart).rem = State.reset.rem := rfl
@[simp] theorem State.restart_cw (s : State) : (s.restart).cw = State.reset.cw := rfl
@[simp] theorem State.restart_mod (s : State) : (s.restart).mod = State.reset.mod := rfl
@[simp] theorem State.restart_rsv (s : State) : (s.restart).rsv = State.reset.rsv := rfl
@[simp] theorem State.restart_inputs (s : State) : (s.restart).inputs = s.inputs := rfl
@[simp] theorem State.restart_responses (s : State) : (s.restart).responses = s.responses := rfl

end Sys2Proof.Machine
end

