-- ==== Sys2Proof/Laws/Ops.lean ====
section
/-!
SUPPORT. What the shared operations can do, each said once: the two ways a command ends, the frames
of the stage effects, and the inversion of exec and of step.
-/

namespace Sys2Proof.Machine

/-! ### How a command ends -/

theorem respond_eq (d : Half) (s : State) :
    respond d s = .next { s with responses := s.responses ++ [responseWord .ok d] } := rfl

theorem raise_eq (e : ErrCode) (s : State) :
    raise e s = .next { s with
      status := { s.status with err := if s.status.err = .ok then e else s.status.err },
      responses := s.responses ++ [responseWord e 0#16] } := rfl

theorem respond_next {d : Half} {s t : State} (h : respond d s = .next t) :
    t = s.emit (responseWord .ok d) := (Host.Outcome.next.inj h).symm

theorem raise_next {e : ErrCode} {s t : State} (h : raise e s = .next t) :
    t = (s.latch e).emit (responseWord e 0#16) := (Host.Outcome.next.inj h).symm

/-- A response that carries no data and no error is the zero word (R76). -/
theorem responseWord_ok_zero : responseWord .ok 0#16 = 0#32 := rfl

/-! ### Frames of the effects -/

theorem gfinitEffect_frame (s : State) :
    gfinitEffect s = { s with
      exp := (gfinitEffect s).exp, log := (gfinitEffect s).log,
      status := { s.status with tblv := true } } := by
  simp only [gfinitEffect]

theorem clearRem_frame (n : Nat) (s : State) :
    clearRem n s = { s with rem := (clearRem n s).rem } := rfl

theorem rsStep_frame (b : Byte) (s : State) :
    rsStep b s = { s with rem := (rsStep b s).rem } := rfl

theorem rsgenEffect_frame (n : Byte) (s : State) :
    rsgenEffect n s = { s with
      gen := (rsgenEffect n s).gen, rem := (rsgenEffect n s).rem,
      nec := n, status := { s.status with genv := true } } := by
  simp only [rsgenEffect, clearRem]

/-- Any number of division steps change REM alone. -/
theorem foldl_rsStep_frame (f : Nat → Byte) (l : List Nat) (s : State) :
    l.foldl (fun t k => rsStep (f k) t) s =
      { s with rem := (l.foldl (fun t k => rsStep (f k) t) s).rem } := by
  induction l generalizing s with
  | nil => rfl
  | cons k l ih => rw [List.foldl_cons, ih]; rfl

theorem rsencEffect_frame (s : State) :
    rsencEffect s = { s with
      cw := (rsencEffect s).cw, rem := (rsencEffect s).rem,
      ndata := s.cwlen, cwlen := s.cwlen + s.nec.setWidth 10,
      status := { s.status with ecv := true } } := by
  simp only [rsencEffect]
  rw [foldl_rsStep_frame]
  rfl

theorem mbuildEffect_frame (s : State) :
    mbuildEffect s = { s with
      mod := (mbuildEffect s).mod, rsv := (mbuildEffect s).rsv,
      msize := BitVec.ofNat 6 (Config.SIZE s.version.toNat), status := s.status.afterMbuild,
      plcells := 0#12 } := by
  simp only [mbuildEffect]

theorem placeEffect_frame (s : State) :
    placeEffect s = { s with
      mod := (traverse s).mod, plcells := BitVec.ofNat 12 (traverse s).k,
      status := s.status.afterPlace (traverse s).k (cwBits s) } := by
  simp only [placeEffect]

theorem maskEffect_frame (s : State) :
    maskEffect s = { s with mod := (maskEffect s).mod, status := s.status.afterMask } := by
  simp only [maskEffect]

theorem fmtwrEffect_frame (s : State) :
    fmtwrEffect s = { s with
      fmt := bch15 (formatField s.eclbits), mod := (fmtwrEffect s).mod,
      status := s.status.afterFmtwr } := by
  simp only [fmtwrEffect]

/-! ### Inversion -/

/-- The effect of a command that succeeds, before its response. -/
def effectOf (i : Instr) (s : State) : State :=
  match i with
  | .setver v => { s with version := v.setWidth 4, status := { s.status with verv := true } }
  | .setecl e => { s with eclbits := e.setWidth 2, status := { s.status with eclv := true } }
  | .setalnc c => { s with alncnt := c.setWidth 3 }
  | .setaln k p => { s with align := s.align.setIfInBounds k.toNat p }
  | .cwclr => { s with cwlen := 0#10, ndata := 0#10, status := { s.status with ecv := false } }
  | .cwpush b => { s with cw := writeCell s.cw s.cwlen.toNat b, cwlen := s.cwlen + 1#10 }
  | .clrerr => { s with status := { s.status with err := .ok } }
  | .sreset => s.restart
  | .gfinit => gfinitEffect s
  | .rsgen n => rsgenEffect n s
  | .rsclr => clearRem s.nec.toNat s
  | .rsbyte b => rsStep b s
  | .rsenc => rsencEffect s
  | .mbuild => mbuildEffect s
  | .place => placeEffect s
  | .mask => maskEffect s
  | .fmtwr => fmtwrEffect s
  | .encode n => encodeEffect n s
  | .nop | .rdcw _ | .rdmod _ _ | .rdrsv _ _ | .rdreg _ | .gfmul _ _ | .gfexp _ | .gflog _
  | .rdgen _ | .rdrem _ | .bchenc _ => s

/-- Every command either raises an error or has its effect and responds (R90). -/
theorem exec_cases (i : Instr) (s : State) :
    (∃ e, exec i s = raise e s) ∨ ∃ d, exec i s = respond d (effectOf i s) := by
  cases i <;>
    simp only [exec, effectOf, execNop, execSetver, execSetecl, execSetalnc, execSetaln, execCwclr,
      execCwpush, execRdcw, execRdmod, execRdrsv, execRdreg, execClrerr, execSreset, execGfinit,
      execGfmul, execGfexp, execGflog, execRsgen, execRsclr, execRsbyte, execRsenc, execRdgen,
      execRdrem, execMbuild, execPlace, execMask, execBchenc, execFmtwr, execEncode] <;>
    (repeat' split) <;> first | exact .inl ⟨_, rfl⟩ | exact .inr ⟨_, rfl⟩

/-- What a step can do: nothing, a reset, an illegal word, or a command. -/
theorem step_cases (s : State) :
    (s.inputs = [] ∧ step s = .next s) ∨
    (∃ ev rest, s.inputs = ev :: rest ∧ (ev = .reset ∨ ∃ w, ev = .resetDuring w) ∧
      step s = .next s.dequeue.restart) ∨
    (∃ w rest e, s.inputs = .command w :: rest ∧ decode w = .error e ∧
      step s = raise .opcode s.dequeue) ∨
    (∃ w rest i, s.inputs = .command w :: rest ∧ decode w = .ok i ∧
      step s = exec i s.dequeue) := by
  unfold step nextEvent accept
  cases hin : s.inputs with
  | nil => exact .inl ⟨rfl, rfl⟩
  | cons ev rest =>
    refine .inr ?_
    cases ev with
    | reset => exact .inl ⟨_, _, rfl, .inl rfl, rfl⟩
    | resetDuring w => exact .inl ⟨_, _, rfl, .inr ⟨w, rfl⟩, rfl⟩
    | command w =>
      refine .inr ?_
      cases hd : decode w with
      | error e => exact .inl ⟨w, rest, e, rfl, hd, by simp [hd, execIllegal]⟩
      | ok i => exact .inr ⟨w, rest, i, rfl, hd, by simp [hd]⟩

end Sys2Proof.Machine
end

