-- ==== Sys2Proof/Laws/PerInstr.lean ====
section
/-!
SUPPORT. One lemma per command: its word carries the command's opcode and has a 0 in every bit that
the command's format requires to be zero (spec/30_encoding.md R72, R74).
-/

namespace Sys2Proof

/-- The opcode of a command (R74). -/
def Laws.Encoding.opcode : Instr → Byte
  | .nop => 0x00#8
  | .setver _ => 0x01#8
  | .setecl _ => 0x02#8
  | .setalnc _ => 0x03#8
  | .setaln _ _ => 0x04#8
  | .cwclr => 0x05#8
  | .cwpush _ => 0x06#8
  | .rdcw _ => 0x07#8
  | .rdmod _ _ => 0x08#8
  | .rdrsv _ _ => 0x09#8
  | .rdreg _ => 0x0A#8
  | .clrerr => 0x0B#8
  | .sreset => 0x0C#8
  | .gfinit => 0x10#8
  | .gfmul _ _ => 0x11#8
  | .gfexp _ => 0x12#8
  | .gflog _ => 0x13#8
  | .rsgen _ => 0x20#8
  | .rsclr => 0x21#8
  | .rsbyte _ => 0x22#8
  | .rsenc => 0x23#8
  | .rdgen _ => 0x24#8
  | .rdrem _ => 0x25#8
  | .mbuild => 0x30#8
  | .place => 0x40#8
  | .mask => 0x50#8
  | .bchenc _ => 0x60#8
  | .fmtwr => 0x61#8
  | .encode _ => 0x70#8

/-- The command's word selects the command's row of the opcode map (R72). -/
def Laws.Encoding.Statement (i : Instr) : Prop :=
  opField (encode i) = Laws.Encoding.opcode i ∧ i.format.fits (encode i) = true

theorem opField_wordZ (op : Byte) : opField (wordZ op) = op := by
  apply BitVec.eq_of_getLsbD_eq
  intro i hi
  simp only [opField, wordZ, BitVec.getLsbD_extractLsb', BitVec.getLsbD_append, hi, decide_true,
    Bool.true_and]
  interval_cases i <;> rfl

theorem fits_wordZ (op : Byte) : Format.fits .z (wordZ op) = true := by
  simp only [Format.fits, beq_iff_eq]
  apply BitVec.eq_of_getLsbD_eq
  intro i hi
  simp only [wordZ, BitVec.getLsbD_and, BitVec.getLsbD_append, Format.mustBeZero,
    Format.fixedBits]
  interval_cases i <;> simp

theorem opField_wordA (op a : Byte) : opField (wordA op a) = op := by
  apply BitVec.eq_of_getLsbD_eq
  intro i hi
  simp only [opField, wordA, BitVec.getLsbD_extractLsb', BitVec.getLsbD_append, hi, decide_true,
    Bool.true_and]
  interval_cases i <;> rfl

theorem fits_wordA (op a : Byte) : Format.fits .a (wordA op a) = true := by
  simp only [Format.fits, beq_iff_eq]
  apply BitVec.eq_of_getLsbD_eq
  intro i hi
  simp only [wordA, BitVec.getLsbD_and, BitVec.getLsbD_append, Format.mustBeZero,
    Format.fixedBits]
  interval_cases i <;> simp

theorem opField_wordAB (op a b : Byte) : opField (wordAB op a b) = op := by
  apply BitVec.eq_of_getLsbD_eq
  intro i hi
  simp only [opField, wordAB, BitVec.getLsbD_extractLsb', BitVec.getLsbD_append, hi, decide_true,
    Bool.true_and]
  interval_cases i <;> rfl

theorem fits_wordAB (op a b : Byte) : Format.fits .ab (wordAB op a b) = true := by
  simp only [Format.fits, beq_iff_eq]
  apply BitVec.eq_of_getLsbD_eq
  intro i hi
  simp only [wordAB, BitVec.getLsbD_and, BitVec.getLsbD_append, Format.mustBeZero,
    Format.fixedBits]
  interval_cases i <;> simp

theorem opField_wordX (op : Byte) (idx : Half) : opField (wordX op idx) = op := by
  apply BitVec.eq_of_getLsbD_eq
  intro i hi
  simp only [opField, wordX, BitVec.getLsbD_extractLsb', BitVec.getLsbD_append, hi, decide_true,
    Bool.true_and]
  interval_cases i <;> rfl

theorem fits_wordX (op : Byte) (idx : Half) : Format.fits .x (wordX op idx) = true := by
  simp only [Format.fits, beq_iff_eq]
  apply BitVec.eq_of_getLsbD_eq
  intro i hi
  simp only [wordX, BitVec.getLsbD_and, BitVec.getLsbD_append, Format.mustBeZero,
    Format.fixedBits]
  interval_cases i <;> simp

theorem Laws.Encoding.nop : Laws.Encoding.Statement .nop :=
  ⟨opField_wordZ _, fits_wordZ _⟩

theorem Laws.Encoding.setver (a : Byte) : Laws.Encoding.Statement (.setver a) :=
  ⟨opField_wordA _ _, fits_wordA _ _⟩

theorem Laws.Encoding.setecl (a : Byte) : Laws.Encoding.Statement (.setecl a) :=
  ⟨opField_wordA _ _, fits_wordA _ _⟩

theorem Laws.Encoding.setalnc (a : Byte) : Laws.Encoding.Statement (.setalnc a) :=
  ⟨opField_wordA _ _, fits_wordA _ _⟩

theorem Laws.Encoding.setaln (a b : Byte) : Laws.Encoding.Statement (.setaln a b) :=
  ⟨opField_wordAB _ _ _, fits_wordAB _ _ _⟩

theorem Laws.Encoding.cwclr : Laws.Encoding.Statement .cwclr :=
  ⟨opField_wordZ _, fits_wordZ _⟩

theorem Laws.Encoding.cwpush (a : Byte) : Laws.Encoding.Statement (.cwpush a) :=
  ⟨opField_wordA _ _, fits_wordA _ _⟩

theorem Laws.Encoding.rdcw (a : Half) : Laws.Encoding.Statement (.rdcw a) :=
  ⟨opField_wordX _ _, fits_wordX _ _⟩

theorem Laws.Encoding.rdmod (a b : Byte) : Laws.Encoding.Statement (.rdmod a b) :=
  ⟨opField_wordAB _ _ _, fits_wordAB _ _ _⟩

theorem Laws.Encoding.rdrsv (a b : Byte) : Laws.Encoding.Statement (.rdrsv a b) :=
  ⟨opField_wordAB _ _ _, fits_wordAB _ _ _⟩

theorem Laws.Encoding.rdreg (a : Byte) : Laws.Encoding.Statement (.rdreg a) :=
  ⟨opField_wordA _ _, fits_wordA _ _⟩

theorem Laws.Encoding.clrerr : Laws.Encoding.Statement .clrerr :=
  ⟨opField_wordZ _, fits_wordZ _⟩

theorem Laws.Encoding.sreset : Laws.Encoding.Statement .sreset :=
  ⟨opField_wordZ _, fits_wordZ _⟩

theorem Laws.Encoding.gfinit : Laws.Encoding.Statement .gfinit :=
  ⟨opField_wordZ _, fits_wordZ _⟩

theorem Laws.Encoding.gfmul (a b : Byte) : Laws.Encoding.Statement (.gfmul a b) :=
  ⟨opField_wordAB _ _ _, fits_wordAB _ _ _⟩

theorem Laws.Encoding.gfexp (a : Byte) : Laws.Encoding.Statement (.gfexp a) :=
  ⟨opField_wordA _ _, fits_wordA _ _⟩

theorem Laws.Encoding.gflog (a : Byte) : Laws.Encoding.Statement (.gflog a) :=
  ⟨opField_wordA _ _, fits_wordA _ _⟩

theorem Laws.Encoding.rsgen (a : Byte) : Laws.Encoding.Statement (.rsgen a) :=
  ⟨opField_wordA _ _, fits_wordA _ _⟩

theorem Laws.Encoding.rsclr : Laws.Encoding.Statement .rsclr :=
  ⟨opField_wordZ _, fits_wordZ _⟩

theorem Laws.Encoding.rsbyte (a : Byte) : Laws.Encoding.Statement (.rsbyte a) :=
  ⟨opField_wordA _ _, fits_wordA _ _⟩

theorem Laws.Encoding.rsenc : Laws.Encoding.Statement .rsenc :=
  ⟨opField_wordZ _, fits_wordZ _⟩

theorem Laws.Encoding.rdgen (a : Byte) : Laws.Encoding.Statement (.rdgen a) :=
  ⟨opField_wordA _ _, fits_wordA _ _⟩

theorem Laws.Encoding.rdrem (a : Byte) : Laws.Encoding.Statement (.rdrem a) :=
  ⟨opField_wordA _ _, fits_wordA _ _⟩

theorem Laws.Encoding.mbuild : Laws.Encoding.Statement .mbuild :=
  ⟨opField_wordZ _, fits_wordZ _⟩

theorem Laws.Encoding.place : Laws.Encoding.Statement .place :=
  ⟨opField_wordZ _, fits_wordZ _⟩

theorem Laws.Encoding.mask : Laws.Encoding.Statement .mask :=
  ⟨opField_wordZ _, fits_wordZ _⟩

theorem Laws.Encoding.bchenc (a : Byte) : Laws.Encoding.Statement (.bchenc a) :=
  ⟨opField_wordA _ _, fits_wordA _ _⟩

theorem Laws.Encoding.fmtwr : Laws.Encoding.Statement .fmtwr :=
  ⟨opField_wordZ _, fits_wordZ _⟩

theorem Laws.Encoding.encode (a : Byte) : Laws.Encoding.Statement (.encode a) :=
  ⟨opField_wordA _ _, fits_wordA _ _⟩

end Sys2Proof
end

