-- ==== Sys2Proof/Machine/Assembler.lean ====
section
/-!
DEFINITION. The textual form of commands and the pseudo-instructions: spec/30_encoding.md R80, R81.
Nothing of the machine uses this file; it is how a host's listing becomes command words.
-/

namespace Sys2Proof.Machine

/-- The mnemonics with their opcodes (R74). -/
def mnemonicMap : List (String × Byte) :=
  [("NOP", 0x00#8), ("SETVER", 0x01#8), ("SETECL", 0x02#8), ("SETALNC", 0x03#8),
   ("SETALN", 0x04#8), ("CWCLR", 0x05#8), ("CWPUSH", 0x06#8), ("RDCW", 0x07#8),
   ("RDMOD", 0x08#8), ("RDRSV", 0x09#8), ("RDREG", 0x0A#8), ("CLRERR", 0x0B#8),
   ("SRESET", 0x0C#8), ("GFINIT", 0x10#8), ("GFMUL", 0x11#8), ("GFEXP", 0x12#8),
   ("GFLOG", 0x13#8), ("RSGEN", 0x20#8), ("RSCLR", 0x21#8), ("RSBYTE", 0x22#8),
   ("RSENC", 0x23#8), ("RDGEN", 0x24#8), ("RDREM", 0x25#8), ("MBUILD", 0x30#8),
   ("PLACE", 0x40#8), ("MASK", 0x50#8), ("BCHENC", 0x60#8), ("FMTWR", 0x61#8),
   ("ENCODE", 0x70#8)]

/-- The value of a digit character below `base`; letters are hexadecimal digits of either case. -/
def digitValue (base : Nat) (c : Char) : Option Nat :=
  let n := c.toNat
  let d := if 48 ≤ n ∧ n ≤ 57 then n - 48
    else if 65 ≤ n ∧ n ≤ 70 then n - 55
    else if 97 ≤ n ∧ n ≤ 102 then n - 87
    else base
  if d < base then some d else none

/-- A digit string of at least one digit, most significant digit first. -/
def digitsValue (base : Nat) (cs : List Char) : Option Nat :=
  if cs.isEmpty then none
  else cs.foldl (fun acc c => acc.bind fun v => (digitValue base c).map (base * v + ·)) (some 0)

/-- A number in the notation of R11: decimal, or hexadecimal after 0x, or binary after 0b. -/
def numberValue (cs : List Char) : Option Nat :=
  match cs with
  | '0' :: 'x' :: ds => digitsValue 16 ds
  | '0' :: 'b' :: ds => digitsValue 2 ds
  | ds => digitsValue 10 ds

/-- Drop the spaces around a piece of text (log 9). -/
def trimSpaces (cs : List Char) : List Char :=
  ((cs.dropWhile (· == ' ')).reverse.dropWhile (· == ' ')).reverse

/-- The pieces between commas; an empty text has none. -/
def splitCommas (cs : List Char) : List (List Char) :=
  if cs.isEmpty then []
  else cs.foldr
    (fun c acc => if c == ',' then [] :: acc
      else match acc with
        | [] => [[c]]
        | p :: rest => (c :: p) :: rest) [[]]

/-- The operand list of a text, `none` if a piece is no number. -/
def operandValues (cs : List Char) : Option (List Nat) :=
  (splitCommas cs).mapM fun p => numberValue (trimSpaces p)

/-- A row with operands in the order A then B, or IDX, each within its field's width. -/
def Row.withOperands (ops : List Nat) : Row → Option Instr
  | .z i => if ops = [] then some i else none
  | .a f => match ops with
    | [a] => if a < 256 then some (f (BitVec.ofNat 8 a)) else none
    | _ => none
  | .ab f => match ops with
    | [a, b] => if a < 256 ∧ b < 256 then some (f (BitVec.ofNat 8 a) (BitVec.ofNat 8 b)) else none
    | _ => none
  | .x f => match ops with
    | [i] => if i < 65536 then some (f (BitVec.ofNat 16 i)) else none
    | _ => none

/-- One line of text as a command: a comment starts at `;`, then the mnemonic in upper case and
the operands separated by commas (R80). -/
def assembleChars (line : List Char) : Option Instr :=
  let text := trimSpaces (line.takeWhile (· != ';'))
  let name := text.takeWhile (· != ' ')
  let rest := trimSpaces (text.dropWhile (· != ' '))
  match mnemonicMap.find? (fun p => p.1.toList == name) with
  | none => none
  | some p => (rowOf p.2).bind fun row => (operandValues rest).bind (Row.withOperands · row)

/-- The command word of one line of text (R80). -/
def assembleLine (line : String) : Option Word := (assembleChars line.toList).map encode

/-- The pseudo-instructions (R81). -/
inductive Pseudo where
  | rdstat
  | loadcw (bytes : List Byte)
  | setalign (coordinates : List Byte)
  | rdrow (r : Byte)
  deriving DecidableEq, Repr

/-- The expansion of a pseudo-instruction, for a matrix of side `msize`; `none` for a coordinate
list longer than seven, which has none (R81). DESIGN CHOICE (log 12): LOADCW with no operand is
CWCLR alone, and RDROW with MSIZE = 0 is no command; R81 speaks of an empty list for SETALIGN
only. -/
def Pseudo.expand (msize : Nat) : Pseudo → Option (List Instr)
  | .rdstat => some [.rdreg 0#8]
  | .loadcw bytes => some (.cwclr :: bytes.map .cwpush)
  | .setalign ps =>
    if ps.length ≤ Config.ALN_MAX then
      some (ps.zipIdx.map (fun p => .setaln (BitVec.ofNat 8 p.2) p.1) ++
        [.setalnc (BitVec.ofNat 8 ps.length)])
    else none
  | .rdrow r => some ((List.range msize).map fun c => .rdmod r (BitVec.ofNat 8 c))

end Sys2Proof.Machine
end

