-- ==== Sys2Proof/Tests/Slice0.lean ====
section
/-!
SUPPORT. Small tests, each on words and values that the spec prints (the section or rule is cited),
and, in the second half, one witness per statement with hypotheses: a concrete state and operands
that meet them.
-/

namespace Sys2Proof.Tests

open Sys2Proof.Machine Sys2Proof.Claims

/-! ### Helpers -/

/-- The state after the host presents the word `w`. -/
def after (s : State) (w : Nat) : State :=
  match step (s.withFetchWord 32 w) with
  | .next t => t
  | _ => s

/-- The response to `w`. -/
def answer (s : State) (w : Nat) : Option Word := (after s w).responses.getLast?

/-- The powers of 2 from `x` on, `n` of them. -/
def powersFrom : Nat → Byte → List Byte
  | 0, _ => []
  | n + 1, x => x :: powersFrom n (gfTimes2 x)

/-- A list of elements from index `a` on. -/
def cellsFrom {α : Type} (a : Nat) (vs : List α) : Cells α := vs.zipIdx.map fun p => (a + p.2, p.1)

/-- The tables of R111. -/
def tables : State :=
  let powers := powersFrom 255 1#8
  { State.reset with
    exp := cellsFrom 0 powers
    log := (List.range 255).map fun a =>
      (a + 1, BitVec.ofNat 8 (powers.findIdx fun b => b.toNat == a + 1))
    status := { Status.reset with tblv := true } }

/-- The generator of degree 2, `x^2 + 3x + 2` (R132 (d)), a cleared register, and three data
codewords (spec/95_test_vectors.md section 5). -/
def ready : State :=
  { tables with
    gen := [(0, 0x01#8), (1, 0x03#8), (2, 0x02#8)]
    nec := 2#8
    rem := [(0, 0x00#8), (1, 0x00#8)]
    cw := [(0, 0x12#8), (1, 0x34#8), (2, 0x56#8)]
    cwlen := 3#10
    version := 1#4
    status := { tables.status with genv := true, verv := true, eclv := true } }

/-- A matrix of side 21 with two written cells. -/
def matrix : State :=
  { State.reset with
    version := 1#4
    msize := 21#6
    mod := [(256 * 20 + 19, false), (256 * 20 + 20, true)]
    rsv := [(256 * 20 + 19, true), (256 * 20 + 20, false)]
    status := { Status.reset with verv := true, eclv := true, matv := true } }

/-- Version 2 with one alignment coordinate. -/
def aligned (p : Byte) : State :=
  { State.reset with
    version := 2#4
    alncnt := 1#3
    align := #v[p, 0#8, 0#8, 0#8, 0#8, 0#8, 0#8]
    status := { Status.reset with verv := true } }

/-! ### Well-formed words (R72, R77; spec/95_test_vectors.md section 2, illegal words) -/

theorem test_format_z_refuses_each_field :
    Format.z.fits 0x00010000#32 = false ∧ Format.z.fits 0x00000100#32 = false ∧
    Format.z.fits 0x00000001#32 = false ∧ Format.z.fits 0x10000000#32 = true := by decide

theorem test_format_a_refuses_each_field :
    Format.a.fits 0x01010100#32 = false ∧ Format.a.fits 0x01010001#32 = false ∧
    Format.a.fits 0x01FF0000#32 = true := by decide

theorem test_format_ab_refuses_each_field :
    Format.ab.fits 0x11020380#32 = false ∧ Format.ab.fits 0x11FFFF00#32 = true := by decide

theorem test_format_x_refuses_each_field :
    Format.x.fits 0x07010000#32 = false ∧ Format.x.fits 0x0700FFFF#32 = true := by decide

theorem test_illegal_words :
    decode 0x0D000000#32 = .error .reservedOp ∧ decode 0xFF000000#32 = .error .reservedOp ∧
    decode 0x31000000#32 = .error .reservedOp ∧ decode 0x00000001#32 = .error .mustBeZero ∧
    decode 0x10010000#32 = .error .mustBeZero ∧ decode 0x01010001#32 = .error .mustBeZero ∧
    decode 0x11020380#32 = .error .mustBeZero ∧ decode 0x07010000#32 = .error .mustBeZero ∧
    decode 0x0A0A0100#32 = .error .mustBeZero ∧ decode 0x70000100#32 = .error .mustBeZero := by
  decide

/-! ### A word of every command (sections 2 to 10, and the examples of the command rules) -/

theorem test_decode_host :
    decode 0x00000000#32 = .ok .nop ∧ decode 0x010A0000#32 = .ok (.setver 10#8) ∧
    decode 0x02030000#32 = .ok (.setecl 3#8) ∧ decode 0x03070000#32 = .ok (.setalnc 7#8) ∧
    decode 0x04063200#32 = .ok (.setaln 6#8 50#8) ∧ decode 0x05000000#32 = .ok .cwclr ∧
    decode 0x06EC0000#32 = .ok (.cwpush 0xEC#8) ∧ decode 0x0700FFFF#32 = .ok (.rdcw 65535#16) ∧
    decode 0x08383800#32 = .ok (.rdmod 56#8 56#8) ∧
    decode 0x09081400#32 = .ok (.rdrsv 8#8 20#8) ∧ decode 0x0A160000#32 = .ok (.rdreg 22#8) ∧
    decode 0x0B000000#32 = .ok .clrerr ∧ decode 0x0C000000#32 = .ok .sreset := by decide

theorem test_decode_field_and_coder :
    decode 0x10000000#32 = .ok .gfinit ∧ decode 0x1153CA00#32 = .ok (.gfmul 0x53#8 0xCA#8) ∧
    decode 0x12FE0000#32 = .ok (.gfexp 254#8) ∧ decode 0x131D0000#32 = .ok (.gflog 0x1D#8) ∧
    decode 0x20FF0000#32 = .ok (.rsgen 255#8) ∧ decode 0x21000000#32 = .ok .rsclr ∧
    decode 0x22120000#32 = .ok (.rsbyte 0x12#8) ∧ decode 0x23000000#32 = .ok .rsenc ∧
    decode 0x24070000#32 = .ok (.rdgen 7#8) ∧ decode 0x25010000#32 = .ok (.rdrem 1#8) := by
  decide

theorem test_decode_matrix :
    decode 0x30000000#32 = .ok .mbuild ∧ decode 0x40000000#32 = .ok .place ∧
    decode 0x50000000#32 = .ok .mask ∧ decode 0x601F0000#32 = .ok (.bchenc 31#8) ∧
    decode 0x61000000#32 = .ok .fmtwr ∧ decode 0x700A0000#32 = .ok (.encode 10#8) := by decide

/-- The host's view of the decoder: the row's own bits, and a word it refuses. -/
theorem test_decode_table_word :
    decodeTableWord 32 0x22560000 = some (.rsbyte 0x56#8) ∧
    decodeTableWord 32 0x22560001 = none := by decide

/-- Lines of assembler (R80, section 2). -/
theorem test_assemble_lines :
    assembleLine "SETALN 6, 50" = some 0x04063200#32 ∧
    assembleLine "CWPUSH 0xEC" = some 0x06EC0000#32 ∧
    assembleLine "RDCW 65535" = some 0x0700FFFF#32 ∧
    assembleLine "MBUILD ; comment" = some 0x30000000#32 := by decide +kernel

/-- The pseudo-instructions (R81; LOADCW with no operand, log 12). -/
theorem test_expand_pseudos :
    Pseudo.rdstat.expand 0 = some [.rdreg 0#8] ∧
    (Pseudo.loadcw [0x40#8, 0x54#8]).expand 0 =
      some [.cwclr, .cwpush 0x40#8, .cwpush 0x54#8] ∧
    (Pseudo.setalign [6#8, 18#8]).expand 0 =
      some [.setaln 0#8 6#8, .setaln 1#8 18#8, .setalnc 2#8] ∧
    (Pseudo.loadcw []).expand 0 = some [.cwclr] ∧
    (Pseudo.setalign []).expand 0 = some [.setalnc 0#8] ∧
    (Pseudo.rdrow 3#8).expand 2 = some [.rdmod 3#8 0#8, .rdmod 3#8 1#8] := by decide

/-! ### One step per command (the examples of the command rules) -/

/-- R91: and NOP does not clear STATUS.ERR. -/
theorem test_nop :
    answer State.reset 0x00000000 = some 0x00000000#32 ∧
    (after (withErr State.reset .arg) 0x00000000).status.err = .arg := by decide

/-- R92, both ends of the legal range. -/
theorem test_setver_range :
    answer State.reset 0x01000000 = some 0x20000000#32 ∧
    answer State.reset 0x01010000 = some 0x00000000#32 ∧
    (after State.reset 0x010A0000).version = 10#4 ∧
    answer State.reset 0x010B0000 = some 0x20000000#32 := by decide

/-- R92: a failed SETVER leaves VERSION as it was, and the matrix keeps its size. -/
theorem test_setver_frame :
    (after matrix 0x010B0000).version = 1#4 ∧ (after matrix 0x01050000).msize = 21#6 := by decide

/-- R93. -/
theorem test_setecl :
    (after State.reset 0x02030000).eclbits = 3#2 ∧ (after State.reset 0x02000000).status.eclv ∧
    answer State.reset 0x02040000 = some 0x20000000#32 := by decide

/-- R94. -/
theorem test_setalnc :
    (after State.reset 0x03070000).alncnt = 7#3 ∧
    answer State.reset 0x03080000 = some 0x20000000#32 := by decide

/-- R95. -/
theorem test_setaln :
    (after State.reset 0x04011200).align = #v[0#8, 18#8, 0#8, 0#8, 0#8, 0#8, 0#8] ∧
    (after State.reset 0x0406FF00).align = #v[0#8, 0#8, 0#8, 0#8, 0#8, 0#8, 255#8] ∧
    answer State.reset 0x04070000 = some 0x20000000#32 := by decide

/-- R96. -/
theorem test_cwclr :
    (after ready 0x05000000).cwlen = 0#10 ∧ (after ready 0x05000000).nec = 2#8 := by decide

/-- R97: the last free place, a full buffer, and a closed one. -/
theorem test_cwpush :
    (after { State.reset with cwlen := 511#10 } 0x06400000).cw = [(511, 0x40#8)] ∧
    answer { State.reset with cwlen := 512#10 } 0x06400000 = some 0x40000000#32 ∧
    answer { State.reset with status := { Status.reset with ecv := true }, cwlen := 512#10 }
      0x06400000 = some 0x30000000#32 := by decide

/-- R98. -/
theorem test_rdcw :
    answer { State.reset with cw := [(0, 0x40#8), (1, 0x54#8)], cwlen := 2#10 } 0x07000001 =
      some 0x00000054#32 ∧
    answer { State.reset with cw := [(0, 0x40#8), (1, 0x54#8)], cwlen := 2#10 } 0x07000002 =
      some 0x20000000#32 := by decide

/-- R99: row then column; outside; no matrix. -/
theorem test_rdmod :
    answer matrix 0x08141400 = some 0x00000001#32 ∧ answer matrix 0x08141300 = some 0#32 ∧
    answer matrix 0x08150000 = some 0x20000000#32 ∧
    answer State.reset 0x08150000 = some 0x30000000#32 := by decide

/-- R100. -/
theorem test_rdrsv :
    answer matrix 0x09141400 = some 0#32 ∧ answer matrix 0x09141300 = some 0x00000001#32 ∧
    answer matrix 0x09001500 = some 0x20000000#32 := by decide

/-- R101: ID, STATUS (VERV, ECLV, MATV: bits 3, 4, 5), and the numbers with no register. -/
theorem test_rdreg :
    answer State.reset 0x0A0A0000 = some 0x00004751#32 ∧
    answer matrix 0x0A000000 = some 0x00000038#32 ∧
    answer State.reset 0x0A0B0000 = some 0x20000000#32 ∧
    answer State.reset 0x0A170000 = some 0x20000000#32 := by decide

/-- R101: ALIGN[k] whether or not it is in use; MSIZE. -/
theorem test_rdreg_align :
    answer { aligned 18#8 with alncnt := 0#3 } 0x0A100000 = some 18#32 ∧
    answer matrix 0x0A070000 = some 21#32 := by decide

/-- R102 and R25: the latch, its first error, and its clearing. -/
theorem test_clrerr :
    (after (withErr State.reset .seq) 0x01000000).status.err = .seq ∧
    (after (withErr State.reset .seq) 0x0B000000).status.err = .ok := by decide

/-- R103. -/
theorem test_sreset :
    (after ready 0x0C000000).status.word = 0#16 ∧ (after ready 0x0C000000).cwlen = 0#10 ∧
    answer ready 0x0C000000 = some 0#32 := by decide

/-- R116: STATUS reads 1 after GFINIT. -/
theorem test_gfinit_status : (after State.reset 0x10000000).status.word = 1#16 := by decide

/-- R111, R112 (d): the first nine entries of the builder, the ninth the first reduction. -/
theorem test_table_builder :
    buildTables 9 0 1#9 [] [] =
      (cellsFrom 0 [1#8, 2#8, 4#8, 8#8, 16#8, 32#8, 64#8, 128#8, 0x1D#8],
       [(1, 0#8), (2, 1#8), (4, 2#8), (8, 3#8), (16, 4#8), (0x1D, 8#8), (32, 5#8), (64, 6#8),
        (128, 7#8)]) := by decide

/-- R117, section 3. -/
theorem test_gfmul :
    answer tables 0x1153CA00 = some 0x0000008F#32 ∧ answer tables 0x11028000 = some 0x1D#32 ∧
    answer tables 0x11FFFF00 = some 0xE2#32 ∧ answer tables 0x11000000 = some 0#32 := by
  decide +kernel

/-- Section 2: decode comes before the other checks. -/
theorem test_gfmul_priority :
    answer State.reset 0x11020380 = some 0x10000000#32 ∧
    answer State.reset 0x11020300 = some 0x30000000#32 := by decide

/-- R118. -/
theorem test_gfexp :
    answer tables 0x12080000 = some 0x1D#32 ∧ answer tables 0x12FE0000 = some 0x8E#32 ∧
    answer tables 0x12FF0000 = some 0x20000000#32 := by decide +kernel

/-- R119. -/
theorem test_gflog :
    answer tables 0x131D0000 = some 8#32 ∧ answer tables 0x13FF0000 = some 0xAF#32 ∧
    answer tables 0x13010000 = some 0#32 ∧ answer tables 0x13000000 = some 0x20000000#32 := by
  decide +kernel

/-- R132 (d), R133: the generator of degree 3. -/
theorem test_rsgen :
    (after tables 0x20030000).gen = cellsFrom 0 [0x01#8, 0x07#8, 0x0E#8, 0x08#8] ∧
    (after tables 0x20030000).nec = 3#8 ∧ answer tables 0x20000000 = some 0x20000000#32 := by
  decide +kernel

/-- R134. -/
theorem test_rsclr :
    (after { ready with rem := [(0, 0x36#8), (1, 0x24#8)] } 0x21000000).rem =
      [(0, 0#8), (1, 0#8)] ∧
    answer tables 0x21000000 = some 0x30000000#32 := by decide +kernel

/-- R136: the first two steps of the example. -/
theorem test_rsbyte :
    (after ready 0x22120000).rem = [(0, 0x36#8), (1, 0x24#8)] ∧
    (after { ready with rem := [(0, 0x36#8), (1, 0x24#8)] } 0x22340000).rem =
      [(0, 0x22#8), (1, 0x04#8)] := by decide +kernel

/-- R137 with the remainder of R136's example: 98 E8 is appended, leading slot first. -/
theorem test_rsenc :
    (after ready 0x23000000).cw = cellsFrom 0 [0x12#8, 0x34#8, 0x56#8, 0x98#8, 0xE8#8] ∧
    (after ready 0x23000000).ndata = 3#10 ∧ (after ready 0x23000000).cwlen = 5#10 := by
  decide +kernel

/-- R137, R213: closed before full; full. -/
theorem test_rsenc_errors :
    answer { ready with status := { ready.status with ecv := true }, cwlen := 511#10 } 0x23000000 =
      some 0x30000000#32 ∧
    answer { ready with cwlen := 511#10 } 0x23000000 = some 0x40000000#32 := by decide +kernel

/-- R138. -/
theorem test_rdgen :
    answer ready 0x24010000 = some 3#32 ∧ answer ready 0x24030000 = some 0x20000000#32 := by
  decide +kernel

/-- R139. -/
theorem test_rdrem :
    answer { ready with rem := [(0, 0x36#8), (1, 0x24#8)] } 0x25010000 = some 0x24#32 ∧
    answer ready 0x25020000 = some 0x20000000#32 := by decide +kernel

/-- R150: `RDREG 7` and `RDREG 0` after MBUILD at version 1. -/
theorem test_mbuild_registers :
    (after { State.reset with version := 1#4, status := { Status.reset with verv := true } }
      0x30000000).msize = 21#6 ∧
    (after { State.reset with version := 1#4, status := { Status.reset with verv := true } }
      0x30000000).status.word = 0x28#16 := by decide

/-- R150: the range of an alignment coordinate in use at version 2 is 2 to 22. -/
theorem test_mbuild_range :
    answer (aligned 1#8) 0x30000000 = some 0x20000000#32 ∧
    answer (aligned 2#8) 0x30000000 = some 0#32 ∧
    answer (aligned 22#8) 0x30000000 = some 0#32 ∧
    answer (aligned 23#8) 0x30000000 = some 0x20000000#32 := by decide

/-- R153: the seven rows of a finder pattern. -/
theorem test_finder_rows :
    ((List.range 7).map fun r => (List.range 7).map fun c => (finderDark r c).toNat) =
      [[1, 1, 1, 1, 1, 1, 1], [1, 0, 0, 0, 0, 0, 1], [1, 0, 1, 1, 1, 0, 1],
       [1, 0, 1, 1, 1, 0, 1], [1, 0, 1, 1, 1, 0, 1], [1, 0, 0, 0, 0, 0, 1],
       [1, 1, 1, 1, 1, 1, 1]] := by decide

/-- R154: 15 separator cells per finder; the outer corner of the bottom-left one. -/
theorem test_separator_cells :
    (separatorCells 21 0 0).length = 15 ∧ (separatorCells 21 0 14).length = 15 ∧
    (separatorCells 21 14 0).length = 15 ∧ (13, 7) ∈ separatorCells 21 14 0 := by decide +kernel

/-- R157: the five rows of an alignment pattern. -/
theorem test_alignment_rows :
    ((List.range 5).map fun r => (List.range 5).map fun c => (alignDark r c).toNat) =
      [[1, 1, 1, 1, 1], [1, 0, 0, 0, 1], [1, 0, 1, 0, 1], [1, 0, 0, 0, 1],
       [1, 1, 1, 1, 1]] := by decide

/-- R156: a footprint that meets a reserved cell is skipped. -/
theorem test_alignment_skipped :
    tryAlign { mod := [], rsv := writeGrid [] 16 16 true } (18, 18) =
      { mod := [], rsv := writeGrid [] 16 16 true } := by decide +kernel

/-- R171, R174: after the last cell of lane 8 comes lane 5, and after lane 1 the end. -/
theorem test_advance_skips_column_6 :
    ({ right := 8, vert := 20, j := 1, up := true, k := 0, mod := [], done := false } :
      Traversal).advance 21 =
      { right := 5, vert := 0, j := 0, up := false, k := 0, mod := [], done := false } ∧
    (({ right := 1, vert := 20, j := 1, up := false, k := 0, mod := [], done := false } :
      Traversal).advance 21).done = true := by decide

/-- R173, R175: the first free cell, (20, 20), takes bit 7 of CW[0]; a reserved cell takes none. -/
theorem test_place_step :
    (placeStep { matrix with cw := [(0, 0x80#8)], cwlen := 1#10 } 21 (Traversal.start 21 [])).mod =
      [(256 * 20 + 20, true)] ∧
    (placeStep matrix 21 { Traversal.start 21 [] with j := 1 }).k = 0 := by decide

/-- R176: the bits have run out. -/
theorem test_place_zero_fill :
    placedBit { State.reset with cw := [(0, 0xFF#8)], cwlen := 1#10 } 7 = true ∧
    placedBit { State.reset with cw := [(0, 0xFF#8)], cwlen := 1#10 } 8 = false := by decide

/-- R185, R186: a free cell of the pattern is flipped; a reserved one, or an odd one, is not. -/
theorem test_mask_cell :
    maskCell matrix.rsv matrix.mod (20, 20) = [(256 * 20 + 19, false), (256 * 20 + 20, false)] ∧
    maskCell [(256 * 20 + 20, true)] matrix.mod (20, 20) = matrix.mod ∧
    maskCell [(256 * 20 + 19, false)] matrix.mod (20, 19) = matrix.mod := by decide

/-- R185: the flag toggles. -/
theorem test_mask_flag :
    (after matrix 0x50000000).status.masked = true ∧
    (after { matrix with status := { matrix.status with masked := true } }
      0x50000000).status.masked = false := by decide

/-- R193. -/
theorem test_bchenc :
    answer State.reset 0x60080000 = some 0x000077C4#32 ∧
    answer State.reset 0x60000000 = some 0x00005412#32 ∧
    answer State.reset 0x601F0000 = some 0x00002BED#32 ∧
    answer State.reset 0x60200000 = some 0x20000000#32 := by decide

/-- R192, R194: FMT for each ECL indicator. -/
theorem test_fmtwr_fmt :
    (after matrix 0x61000000).fmt = 0x5412#15 ∧
    (after { matrix with eclbits := 1#2 } 0x61000000).fmt = 0x77C4#15 ∧
    (after { matrix with eclbits := 2#2 } 0x61000000).fmt = 0x1689#15 ∧
    (after { matrix with eclbits := 3#2 } 0x61000000).fmt = 0x355F#15 := by decide

/-- R194 to R196: row 8 reads 101010100000000100100 after FMTWR at version 1, ECLBITS 0; its two
cells that are in no strip are left out here. The vertical strip starts at the bottom. -/
theorem test_fmtwr_strips :
    ((stripH 21).map fun rc => readGrid (after { matrix with mod := [], rsv := [] }
      0x61000000).mod rc.1 rc.2) =
      [1, 0, 1, 0, 1, 0, 0, 0, 0, 0, 1, 0, 0, 1, 0].map (fun n => some (n == 1)) ∧
    readGrid (after { matrix with mod := [], rsv := [] } 0x61000000).mod 20 8 = some true := by
  decide +kernel

/-- R206, R213: ENCODE's checks in their order. -/
theorem test_encode_checks :
    answer State.reset 0x70000000 = some 0x30000000#32 ∧
    answer ready 0x70000000 = some 0x20000000#32 ∧
    answer { ready with cwlen := 503#10 } 0x700A0000 = some 0x40000000#32 ∧
    answer { ready with status := { ready.status with ecv := true } } 0x700A0000 =
      some 0x30000000#32 := by decide +kernel

/-- Section 10, the priority vectors: a bad coordinate outranks a full buffer. -/
theorem test_encode_priority :
    answer { aligned 1#8 with
      cwlen := 512#10
      status := { tables.status with verv := true, eclv := true } } 0x700A0000 =
        some 0x20000000#32 ∧
    answer { aligned 18#8 with
      cwlen := 512#10
      status := { tables.status with verv := true, eclv := true } } 0x700A0000 =
        some 0x40000000#32 := by decide

/-- R207: NEC, NDATA, CWLEN, MSIZE, FMT. -/
theorem test_encode_registers :
    answer ready 0x70020000 = some 0#32 ∧ (after ready 0x70020000).nec = 2#8 ∧
    (after ready 0x70020000).ndata = 3#10 ∧ (after ready 0x70020000).cwlen = 5#10 ∧
    (after ready 0x70020000).msize = 21#6 ∧ (after ready 0x70020000).fmt = 0x5412#15 := by
  decide +kernel

/-- R230: a command abandoned by `rst` gets no response. -/
theorem test_reset_during :
    step { ready with inputs := [.resetDuring 0x00000000#32] } = .next State.reset := by
  rfl

/-- R179: the first cells of the traversal at version 1, with everything free. -/
theorem test_lane_order_start :
    (laneOrder 21).take 6 = [(20, 20), (20, 19), (19, 20), (19, 19), (18, 20), (18, 19)] := by
  decide +kernel

/-! ### Witnesses: states and operands that meet the hypotheses of the statements -/

/-- Everything that a command can change, away from its reset value. -/
def full : State :=
  { ready with
    eclbits := 1#2
    alncnt := 1#3
    ndata := 1#10
    msize := 21#6
    fmt := 1#15
    plcells := 1#12
    align := #v[1#8, 0#8, 0#8, 0#8, 0#8, 0#8, 0#8]
    mod := matrix.mod
    rsv := matrix.rsv
    status := { tblv := true, genv := true, ecv := true, verv := true, eclv := true, matv := true,
                placed := true, masked := true, fmtd := true, plshort := true, plover := true,
                err := .cap } }

/-- A state whose next event is the word `w`. -/
def asked (w : Word) : State := { State.reset with inputs := [.command w] }

theorem witness_EncodeOfDecode : decode 0x01010000#32 = .ok (.setver 1#8) := by decide

theorem witness_WordsMatchTheTable :
    (∃ i, decode 0x07FFFF00#32 = .ok i) = False ∧ (∃ i, decode 0x0700FFFF#32 = .ok i) ∧
    (0x07000000#32, 0xFFFF0000#32) ∈ tableRows ∧
    0x0700FFFF#32 &&& 0xFFFF0000#32 = 0x07000000#32 := by
  refine ⟨?_, ⟨.rdcw 0xFFFF#16, by decide⟩, by decide, by decide⟩
  simp only [eq_iff_iff, iff_false, not_exists]
  intro i h
  exact absurd (h.symm.trans (by decide : decode 0x07FFFF00#32 = .error .mustBeZero)) (by simp)

theorem witness_StepRunsDecodedCommand :
    (asked 0x01010000#32).inputs = .command 0x01010000#32 :: [] ∧
    decode 0x01010000#32 = .ok (.setver 1#8) ∧
    ∃ t, step (asked 0x01010000#32) = .next t ∧ t.version = 1#4 :=
  ⟨rfl, by decide, _, rfl, by decide⟩

theorem witness_StepAnswersIllegalWord :
    (asked 0xFF000000#32).inputs = .command 0xFF000000#32 :: [] ∧
    decode 0xFF000000#32 = .error .reservedOp ∧
    (asked 0x00000001#32).inputs = .command 0x00000001#32 :: [] ∧
    decode 0x00000001#32 = .error .mustBeZero := ⟨rfl, by decide, rfl, by decide⟩

theorem witness_ResetInputEqualsSreset :
    ({ ready with inputs := [.reset] } : State).inputs = .reset :: [] ∧
    ({ ready with inputs := [.resetDuring 0#32] } : State).inputs = .resetDuring 0#32 :: [] :=
  ⟨rfl, rfl⟩

theorem witness_EveryCommandAnsweredOnce :
    (asked 0xFF000000#32).inputs = .command 0xFF000000#32 :: [] := rfl

/-- Both outcomes. -/
theorem witness_FailureHasNoEffect :
    (∃ t, exec (.setver 10#8) State.reset = .next t) ∧
    exec (.setver 11#8) State.reset = .next (failed State.reset .arg) := ⟨⟨_, rfl⟩, rfl⟩

/-- A coder with a generator of degree 2 and `m` codewords in the buffer. -/
def coder (m : BitVec 10) : State :=
  { State.reset with nec := 2#8, cwlen := m, status := { Status.reset with genv := true } }

/-- Each of the four clauses, RSENC at the edge of the buffer. -/
theorem witness_ErrorTableIsComplete :
    seqWhen .rsenc State.reset ∧
    (¬ seqWhen (.setver 11#8) State.reset ∧ argWhen (.setver 11#8) State.reset) ∧
    (¬ seqWhen .rsenc (coder 511#10) ∧ ¬ argWhen .rsenc (coder 511#10) ∧
      capWhen .rsenc (coder 511#10)) ∧
    (¬ seqWhen .rsenc (coder 510#10) ∧ ¬ argWhen .rsenc (coder 510#10) ∧
      ¬ capWhen .rsenc (coder 510#10)) := by
  simp only [seqWhen, argWhen, capWhen]
  decide

theorem witness_ReadCommandsChangeNothing :
    (∃ t, exec (.rdreg 22#8) full = .next t) ∧
    exec (.rdreg 23#8) State.reset = .next (failed State.reset .arg) := ⟨⟨_, rfl⟩, rfl⟩

/-- SRESET changes every array, register and flag of `full`. -/
theorem witness_ArrayWriters :
    ∃ t, exec .sreset full = .next t ∧ t.exp ≠ full.exp ∧ t.log ≠ full.log ∧ t.gen ≠ full.gen ∧
      t.rem ≠ full.rem ∧ t.cw ≠ full.cw ∧ t.align ≠ full.align ∧ t.mod ≠ full.mod ∧
      t.rsv ≠ full.rsv := ⟨_, rfl, by decide +kernel⟩

theorem witness_RegisterWriters :
    ∃ t, exec .sreset full = .next t ∧ t.version ≠ full.version ∧ t.eclbits ≠ full.eclbits ∧
      t.alncnt ≠ full.alncnt ∧ t.cwlen ≠ full.cwlen ∧ t.ndata ≠ full.ndata ∧ t.nec ≠ full.nec ∧
      t.msize ≠ full.msize ∧ t.fmt ≠ full.fmt ∧ t.plcells ≠ full.plcells :=
  ⟨_, rfl, by decide +kernel⟩

/-- A command that keeps the register, and one that writes it, for each clause: NOP and RDREG of
another number; SETVER, SETECL, SETALNC, CWCLR, RSGEN, MBUILD, FMTWR, PLACE and SETALN. -/
theorem witness_RegisterReaders :
    (∃ t, exec .nop full = .next t) ∧ (∃ t, exec (.rdreg 0#8) full = .next t) ∧
    (∃ t, exec (.setver 2#8) full = .next t) ∧ (∃ t, exec (.setecl 2#8) full = .next t) ∧
    (∃ t, exec (.setalnc 2#8) full = .next t) ∧ (∃ t, exec .cwclr full = .next t) ∧
    (∃ t, exec (.rsgen 7#8) full = .next t) ∧ (∃ t, exec .mbuild (aligned 22#8) = .next t) ∧
    (∃ t, exec .fmtwr full = .next t) ∧ (∃ t, exec .place matrix = .next t) ∧
    (∃ t, exec (.setaln 0#8 5#8) full = .next t) ∧ (∃ t, exec (.rdreg 16#8) full = .next t) ∧
    (∀ k : Fin 7, Instr.rdreg 0#8 ≠ .rdreg (BitVec.ofNat 8 (16 + k.val))) ∧
    Instr.rdreg 16#8 ≠ .rdreg (BitVec.ofNat 8 (16 + 1)) ∧ ∀ n, Instr.rsgen 7#8 ≠ .encode n := by
  refine ⟨⟨_, rfl⟩, ⟨_, rfl⟩, ⟨_, rfl⟩, ⟨_, rfl⟩, ⟨_, rfl⟩, ⟨_, rfl⟩, ⟨_, rfl⟩, ⟨_, rfl⟩, ⟨_, rfl⟩,
    ⟨_, rfl⟩, ⟨_, rfl⟩, ⟨_, rfl⟩, by decide, by decide, fun _ => by simp⟩

/-- Both outcomes on SETALN 0: ALIGN[0] is written whatever it held, ALIGN[1] is kept. -/
theorem test_setaln_blind :
    exec (.setaln 0#8 5#8) { State.reset with align := State.reset.align.set 0 9#8 } =
      exec (.setaln 0#8 5#8) State.reset ∧
    (after { State.reset with align := State.reset.align.set 1 9#8 } 0x04000500).align =
      #v[5#8, 9#8, 0#8, 0#8, 0#8, 0#8, 0#8] := ⟨rfl, by decide⟩

theorem witness_StatusFlagWriters :
    ∃ t, exec .sreset full = .next t ∧ t.status.tblv ≠ full.status.tblv ∧
      t.status.genv ≠ full.status.genv ∧ t.status.ecv ≠ full.status.ecv ∧
      t.status.verv ≠ full.status.verv ∧ t.status.eclv ≠ full.status.eclv ∧
      t.status.matv ≠ full.status.matv ∧ t.status.placed ≠ full.status.placed ∧
      t.status.masked ≠ full.status.masked ∧ t.status.fmtd ≠ full.status.fmtd ∧
      t.status.plshort ≠ full.status.plshort ∧ t.status.plover ≠ full.status.plover :=
  ⟨_, rfl, by decide +kernel⟩

/-- A latched error and none, a reset event, CLRERR and another command. -/
theorem witness_FirstErrorWins :
    (∃ t, step { full with inputs := [.reset] } = .next t) ∧ full.status.err ≠ .ok ∧
    (∃ t, exec .nop full = .next t) ∧ Instr.nop ≠ .clrerr ∧ Instr.nop ≠ .sreset ∧
    Instr.nop ≠ .rdreg 0#8 ∧ (∃ t, exec .clrerr full = .next t) ∧
    (∃ t, exec (.setver 0#8) State.reset = .next t) ∧ State.reset.status.err = .ok :=
  ⟨⟨_, rfl⟩, by decide, ⟨_, rfl⟩, by decide, by decide, by decide, ⟨_, rfl⟩, ⟨_, rfl⟩, rfl⟩

theorem witness_tabled : tabled tables := by
  refine ⟨rfl, fun _ => ?_, fun _ => ?_⟩
  · decide +kernel
  · decide +kernel

/-- `ready`, its next event the word of RSENC: a state that meets every invariant. -/
def asking : State := { ready with inputs := [.command 0x23000000#32] }

theorem asking_registers : asking.RegistersLegal :=
  ⟨by decide, by decide, by decide, .inl rfl, by decide, by decide⟩

theorem asking_flags : asking.FlagsConsistent := by
  constructor <;> decide

theorem asking_steps : ∃ t, step asking = .next t := ⟨_, rfl⟩

theorem witness_StepKeepsRegistersLegal :
    asking.RegistersLegal ∧ asking.FlagsConsistent ∧ ∃ t, step asking = .next t :=
  ⟨asking_registers, asking_flags, asking_steps⟩

theorem witness_StepKeepsCanonical : asking.Canonical ∧ ∃ t, step asking = .next t := by
  refine ⟨⟨?_, ?_, ?_, ?_, ?_, ?_, ?_⟩, asking_steps⟩ <;> decide +kernel

theorem witness_StepKeepsBounded :
    asking.RegistersLegal ∧ asking.FlagsConsistent ∧ asking.Bounded ∧
    ∃ t, step asking = .next t := by
  refine ⟨asking_registers, asking_flags, ⟨?_, ?_, ?_, ?_, ?_, ?_, ?_⟩, asking_steps⟩
  · decide +kernel
  · decide +kernel
  · decide +kernel
  · decide +kernel
  · decide +kernel
  · intro p h; cases h
  · intro p h; cases h

theorem witness_StepKeepsReadableWritten :
    asking.RegistersLegal ∧ asking.FlagsConsistent ∧ asking.Written ∧
    ∃ t, step asking = .next t := by
  refine ⟨asking_registers, asking_flags, ⟨?_, ?_, ?_, ?_, ?_, ?_, ?_⟩, asking_steps⟩
  · decide +kernel
  · have h : ∀ a < 256, 1 ≤ a → (readCell asking.log a).isSome := by decide +kernel
    exact fun _ a h1 h2 => h a (by omega) h1
  · decide +kernel
  · decide +kernel
  · decide +kernel
  · intro h; exact absurd h (by decide)
  · intro h; exact absurd h (by decide)

/-- The readable elements agree; one beyond CWLEN does not. -/
theorem witness_StepReadsOnlyReadable :
    asking.RegistersLegal ∧ asking.FlagsConsistent ∧
    Agree asking { asking with cw := asking.cw ++ [(7, 9#8)] } ∧
    readCell asking.cw 7 ≠ readCell (asking.cw ++ [(7, 9#8)]) 7 ∧ ∃ t, step asking = .next t := by
  refine ⟨asking_registers, asking_flags, ⟨rfl, rfl, rfl, rfl, rfl, rfl, rfl, rfl, rfl, rfl, rfl,
    rfl, rfl, fun _ _ _ => rfl, fun _ _ _ _ => rfl, fun _ _ _ => rfl, fun _ _ _ => rfl, ?_,
    fun _ _ _ _ _ => rfl, fun _ _ _ _ _ => rfl⟩, by decide, asking_steps⟩
  decide

/-- A version 1 matrix with every cell reserved, its next event the word of MASK. -/
def built : State :=
  let cells := (block 0 0 21 21).map fun rc => cellIndex rc.1 rc.2
  { matrix with
    mod := cells.map fun a => (a, bareModule 21 (a / 256) (a % 256))
    rsv := cells.map fun a => (a, true)
    inputs := [.command 0x50000000#32] }

theorem built_structure : structureBuilt built := by
  intro _ r hr c hc
  have hr : r < 21 := hr
  have hc : c < 21 := hc
  have hmem : cellIndex r c ∈ (block 0 0 21 21).map fun rc => cellIndex rc.1 rc.2 :=
    List.mem_map.2 ⟨(r, c), mem_block.2 ⟨by simpa using hr, by simpa using hc⟩, rfl⟩
  have hmod : readGrid built.mod r c = some (bareModule 21 r c) := by
    have h := readCell_map (f := fun a => bareModule 21 (a / 256) (a % 256)) hmem
    have h1 : cellIndex r c / 256 = r := by simp only [cellIndex]; omega
    have h2 : cellIndex r c % 256 = c := by simp only [cellIndex]; omega
    rwa [h1, h2] at h
  have hrsv : readGrid built.rsv r c = some true := readCell_map (f := fun _ => true) hmem
  exact ⟨fun _ => ⟨hmod, hrsv⟩, fun _ => hrsv⟩

theorem witness_StepKeepsStructure :
    built.RegistersLegal ∧ built.FlagsConsistent ∧ structureBuilt built ∧
    built.status.matv = true ∧ ∃ t, step built = .next t := by
  refine ⟨⟨by decide, by decide, by decide, .inr ⟨1, by decide⟩, by decide, by decide⟩, ?_,
    built_structure, rfl, _, rfl⟩
  constructor <;> decide

theorem witness_tabled_ready : tabled ready :=
  ⟨rfl, fun _ => witness_tabled.2.exp rfl, fun _ => witness_tabled.2.log rfl⟩

theorem witness_GeneratorBuilt : ready.TablesBuilt ∧ ready.GeneratorBuilt := by
  refine ⟨witness_tabled_ready.2, fun _ => ?_⟩
  decide +kernel

theorem witness_StepKeepsTablesAndGenerator :
    asking.FlagsConsistent ∧ asking.TablesBuilt ∧ asking.GeneratorBuilt ∧
    ∃ t, step asking = .next t := by
  refine ⟨asking_flags, ⟨fun _ => witness_tabled.2.exp rfl, fun _ => witness_tabled.2.log rfl⟩,
    fun _ => ?_, asking_steps⟩
  decide +kernel

/-- Each clause at the ends of its range. -/
theorem witness_PlainSettings :
    (0#8).toNat < 1 ∧ 10 < (11#8).toNat ∧ 1 ≤ (1#8).toNat ∧ (10#8).toNat ≤ 10 := by decide

theorem witness_StoredSettings :
    3 < (4#8).toNat ∧ (3#8).toNat ≤ 3 ∧ 7 < (8#8).toNat ∧ (7#8).toNat ≤ 7 ∧ 6 < (7#8).toNat ∧
    (6#8).toNat ≤ 6 := by decide

theorem witness_CwpushAppends :
    full.status.ecv = true ∧ ready.status.ecv = false ∧
    ({ ready with cwlen := 512#10 } : State).cwlen.toNat = 512 ∧
    ({ ready with cwlen := 511#10 } : State).cwlen.toNat ≠ 512 := by decide

theorem witness_ElementReadBack :
    ready.cwlen.toNat ≤ (3#16).toNat ∧ (2#16).toNat < ready.cwlen.toNat ∧
    ready.status.matv = false ∧ matrix.status.matv = true ∧ matrix.msize.toNat ≤ (21#8).toNat ∧
    (20#8).toNat < matrix.msize.toNat := by decide

theorem witness_RdregReturnsRegister :
    10 < (11#8).toNat ∧ (15#8).toNat < 16 ∧ 22 < (23#8).toNat := by decide

theorem witness_ExpAndLogLookups :
    State.reset.status.tblv = false ∧ tabled tables ∧ 254#8 ≠ 255#8 ∧ 1#8 ≠ 0#8 :=
  ⟨rfl, witness_tabled, by decide, by decide⟩

theorem witness_GfmulIsCarrylessProduct : State.reset.status.tblv = false ∧ tabled tables :=
  ⟨rfl, witness_tabled⟩

/-- A zero product and an invertible element. -/
theorem witness_FieldLaws : tabled tables ∧ gfmul tables 0#8 5#8 = 0#8 ∧ 1#8 ≠ 0#8 :=
  ⟨witness_tabled, by decide, by decide⟩

theorem witness_GeneratorHasItsRoots : tabled tables ∧ 1#8 ≠ 0#8 ∧ 255#8 ≠ 0#8 :=
  ⟨witness_tabled, by decide, by decide⟩

theorem witness_RsgenBuildsGenerator :
    State.reset.status.tblv = false ∧ tables.status.tblv = true ∧ 1#8 ≠ 0#8 ∧ 255#8 ≠ 0#8 := by
  decide

theorem witness_RemainderRegisterSteps :
    State.reset.status.genv = false ∧ ready.status.genv = true ∧ 1 < ready.nec.toNat := by decide

/-- The result just fits, and just does not. -/
theorem witness_RsencAppendsRemainder :
    State.reset.status.genv = false ∧ full.status.ecv = true ∧ ready.status.genv = true ∧
    ready.status.ecv = false ∧
    512 < ({ ready with cwlen := 511#10 } : State).cwlen.toNat + ready.nec.toNat ∧
    ({ ready with cwlen := 510#10 } : State).cwlen.toNat + ready.nec.toNat ≤ 512 := by decide

theorem witness_PolynomialReadBack :
    State.reset.status.genv = false ∧ ready.status.genv = true ∧ ready.nec.toNat < (3#8).toNat ∧
    (2#8).toNat ≤ ready.nec.toNat ∧ ready.nec.toNat ≤ (2#8).toNat ∧
    (1#8).toNat < ready.nec.toNat := by decide

theorem witness_CodewordSyndromesAreZero :
    tabled ready ∧ ready.status.genv = true ∧ ready.GeneratorBuilt ∧ ready.status.ecv = false ∧
    ready.cwlen.toNat + ready.nec.toNat ≤ 512 :=
  ⟨witness_tabled_ready, rfl, witness_GeneratorBuilt.2, rfl, by decide⟩

/-- R150's range at version 2 is 2 to 22; version 1 does not use the list. -/
theorem witness_alignLegal :
    alignLegal (aligned 2#8) ∧ alignLegal (aligned 22#8) ∧ ¬ alignLegal (aligned 1#8) ∧
    ¬ alignLegal (aligned 23#8) ∧ alignLegal { aligned 1#8 with version := 1#4 } := by
  unfold alignLegal
  decide

theorem witness_MbuildWritesRegisters :
    State.reset.status.verv = false ∧ (aligned 22#8).status.verv = true ∧
    alignLegal (aligned 22#8) ∧ (aligned 22#8).version.toNat ≤ 10 ∧
    ¬ alignLegal (aligned 23#8) :=
  ⟨rfl, rfl, witness_alignLegal.2.1, by decide, witness_alignLegal.2.2.2.1⟩

theorem witness_versionSet :
    versionSet (aligned 18#8) ∧ versionSet { aligned 18#8 with version := 10#4 } ∧
    versionSet { aligned 18#8 with version := 1#4 } := by
  unfold versionSet
  decide

/-- Cells of each kind at version 1: the outer finder corner, the dark module, a format cell. -/
theorem witness_MbuildStructuralPatterns :
    structural 21 20 0 ∧ structural 21 13 7 ∧ ¬ structural 21 13 8 ∧ structural 21 6 12 ∧
    formatReserved 21 8 20 ∧ formatReserved 21 14 8 ∧ ¬ formatReserved 21 13 8 := by
  simp only [formatReserved]
  decide

/-- The coordinate 18 at version 2 places one pattern, whose footprint is rows and columns 16 to
20 (spec/95_test_vectors.md section 6.2). -/
theorem witness_MbuildWholeMatrix :
    alignLegal (aligned 18#8) ∧
    placedCentres (sideOf (aligned 18#8)) (alignPairs (aligned 18#8)) = [(18, 18)] ∧
    covers (18, 18) 16 20 ∧ ¬ covers (18, 18) 15 20 := by
  refine ⟨?_, by decide +kernel, by decide, by decide⟩
  unfold alignLegal
  decide

theorem witness_MbuildDependsOnItsInputs :
    (aligned 18#8).version = ({ aligned 18#8 with mod := [(0, true)] } : State).version ∧
    (aligned 18#8).status.verv = true ∧ alignLegal (aligned 18#8) ∧
    (∃ t, exec .mbuild (aligned 18#8) = .next t) ∧
    ∃ t, exec .mbuild { aligned 18#8 with mod := [(0, true)] } = .next t :=
  ⟨rfl, rfl, witness_MbuildWholeMatrix.1, ⟨_, rfl⟩, ⟨_, rfl⟩⟩

/-- At version 1 neither ALNCNT nor the list need agree. -/
theorem witness_MbuildDependsOnItsInputs_version_1 :
    ({ aligned 1#8 with version := 1#4 } : State).alncnt ≠ matrix.alncnt ∧
    ({ aligned 1#8 with version := 1#4 } : State).version = matrix.version ∧
    ¬ 2 ≤ matrix.version.toNat ∧ alignLegal { aligned 1#8 with version := 1#4 } ∧
    (∃ t, exec .mbuild { aligned 1#8 with version := 1#4 } = .next t) ∧
    ∃ t, exec .mbuild matrix = .next t :=
  ⟨by decide, rfl, by decide, witness_alignLegal.2.2.2.2, ⟨_, rfl⟩, ⟨_, rfl⟩⟩

/-- R156 with 10 and 22 at version 2 (log 11): the pair (10, 22) is placed, and its footprint covers
(8, 24), the cell that R198 calls light. -/
theorem test_alignment_covers_last_cell_of_row_8 :
    (10, 22) ∈ placedCentres 25 [(10, 10), (10, 22), (22, 10), (22, 22)] ∧
    covers (10, 22) 8 24 ∧ alignModule (10, 22) 8 24 = true := by decide +kernel

theorem witness_legalSize : legalSize 21 ∧ legalSize 57 ∧ legalSize matrix.msize.toNat :=
  ⟨⟨1, by decide⟩, ⟨10, by decide⟩, ⟨1, by decide⟩⟩

/-- The first free cell of `matrix` is (20, 20); (20, 19) is reserved. -/
theorem witness_PlaceFillsFreeCells :
    State.reset.status.matv = false ∧ matrix.status.matv = true ∧
    legalSize matrix.msize.toNat ∧ (freeCells matrix).head? = some (20, 20) ∧
    readRsv matrix.rsv 20 19 = true :=
  ⟨rfl, rfl, witness_legalSize.2.2, by decide +kernel, by decide⟩

theorem witness_ReservedCellsUntouched :
    (∃ t, exec .place matrix = .next t) ∧ (∃ t, exec .mask matrix = .next t) ∧
    readRsv matrix.rsv 20 19 = true := ⟨⟨_, rfl⟩, ⟨_, rfl⟩, by decide⟩

theorem witness_MaskFlipsCheckerboard :
    State.reset.status.matv = false ∧ matrix.status.matv = true ∧ 20 < matrix.msize.toNat ∧
    matrix.msize.toNat ≤ 21 ∧ readRsv matrix.rsv 20 20 = false ∧ (20 + 20) % 2 = 0 := by decide

theorem witness_MaskIsInvolution : matrix.status.matv = true := rfl

/-- A matrix of side 21 whose strips are reserved, in the order of their indexes. -/
def strips : State :=
  { matrix with
    rsv := [(8, true), (264, true), (520, true), (776, true), (1032, true), (1288, true),
            (1800, true), (2048, true), (2049, true), (2050, true), (2051, true), (2052, true),
            (2053, true), (2055, true), (2056, true), (2061, true), (2062, true), (2063, true),
            (2064, true), (2065, true), (2066, true), (2067, true), (3592, true), (3848, true),
            (4104, true), (4360, true), (4616, true), (4872, true), (5128, true)] }

theorem witness_MaskCommutesWithFmtwr :
    strips.status.matv = true ∧ strips.status.eclv = true ∧
    ∀ p ∈ strip1 strips.msize.toNat ++ strip2 strips.msize.toNat,
      readRsv strips.rsv p.1 p.2 = true := by decide +kernel

theorem witness_OtherElementsKept :
    (∃ t, exec (.cwpush 1#8) ready = .next t) ∧ (∃ t, exec .gfinit ready = .next t) ∧
    (∃ t, exec (.rsgen 2#8) ready = .next t) ∧ (∃ t, exec .rsclr ready = .next t) ∧
    (∃ t, exec .rsenc ready = .next t) ∧ (∃ t, exec .place matrix = .next t) ∧
    matrix.msize.toNat ≤ 21 :=
  ⟨⟨_, rfl⟩, ⟨_, rfl⟩, ⟨_, rfl⟩, ⟨_, rfl⟩, ⟨_, rfl⟩, ⟨_, rfl⟩, by decide⟩

theorem witness_BchencReturnsWord : 31 < (32#8).toNat ∧ (31#8).toNat ≤ 31 := by decide

theorem witness_FmtwrWritesStrips :
    State.reset.status.matv = false ∧ matrix.status.matv = true ∧ matrix.status.eclv = true ∧
    legalSize matrix.msize.toNat ∧ (strip1 matrix.msize.toNat)[14]? = some (8, 19) ∧
    (strip2 matrix.msize.toNat)[0]? = some (20, 8) :=
  ⟨rfl, rfl, rfl, witness_legalSize.2.2, by decide, by decide⟩

/-- The buffer is just full after ENCODE 2. -/
theorem witness_encodeReady :
    encodeReady 2#8 ready ∧ encodeReady 2#8 { ready with cwlen := 510#10 } ∧
    ¬ encodeReady 2#8 { ready with cwlen := 511#10 } ∧ versionSet ready := by
  unfold encodeReady alignLegal versionSet
  decide

theorem witness_EncodeChecksAndRegisters :
    State.reset.status.tblv = false ∧ ready.status.tblv = true ∧ ready.status.verv = true ∧
    ready.status.eclv = true ∧ ready.status.ecv = false ∧ alignLegal ready ∧
    512 < ({ ready with cwlen := 511#10 } : State).cwlen.toNat + (2#8).toNat ∧
    encodeReady 2#8 ready ∧ ready.version.toNat ≤ 10 := by
  refine ⟨rfl, rfl, rfl, rfl, rfl, ?_, by decide, witness_encodeReady.1, by decide⟩
  unfold alignLegal
  decide

theorem witness_EncodeKeepsStructure :
    encodeReady 2#8 ready ∧ versionSet ready ∧ structural (sideOf ready) 20 0 :=
  ⟨witness_encodeReady.1, witness_encodeReady.2.2.2, by decide⟩

/-- Two states that differ in what ENCODE does not read. -/
theorem witness_EncodeIsDeterministic :
    encodeReady 2#8 ready ∧ encodeReady 2#8 { ready with mod := [(0, true)], fmt := 1#15 } ∧
    versionSet ready ∧ tabled ready ∧ tabled { ready with mod := [(0, true)], fmt := 1#15 } ∧
    ∀ i < ready.cwlen.toNat, readCw ready i =
      readCw { ready with mod := [(0, true)], fmt := 1#15 } i :=
  ⟨witness_encodeReady.1, witness_encodeReady.1, witness_encodeReady.2.2.2, witness_tabled_ready,
    ⟨rfl, fun _ => witness_tabled.2.exp rfl, fun _ => witness_tabled.2.log rfl⟩, fun _ _ => rfl⟩

end Sys2Proof.Tests
end

section
/-!
SUPPORT. The checks of a command (spec/60_exceptions.md R213, R215) and what it does when they pass:
exec said once as a table, and its inversion.
-/

namespace Sys2Proof.Machine

open Sys2Proof.Claims

/-- The data of the response of a command that succeeds (R76); `effectOf` is its effect. -/
def dataOf (i : Instr) (s : State) : Half :=
  match i with
  | .rdcw idx => byteData (readCw s idx.toNat)
  | .rdmod r c => bitData (readMod s.mod r.toNat c.toNat)
  | .rdrsv r c => bitData (readRsv s.rsv r.toNat c.toNat)
  | .rdreg n => (readReg s n.toNat).getD 0#16
  | .gfmul a b => byteData (gfmul s a b)
  | .gfexp e => byteData (readExp s e.toNat)
  | .gflog a => byteData (readLog s a.toNat)
  | .rdgen j => byteData (readGen s j.toNat)
  | .rdrem j => byteData (readRem s j.toNat)
  | .bchenc f => (bch15 (f.setWidth 5)).setWidth 16
  | .nop | .setver _ | .setecl _ | .setalnc _ | .setaln _ _ | .cwclr | .cwpush _ | .clrerr
  | .sreset | .gfinit | .rsgen _ | .rsclr | .rsbyte _ | .rsenc | .mbuild | .place | .mask
  | .fmtwr | .encode _ => 0#16

theorem mem_alignList {s : State} {p : Nat} :
    p ∈ alignList s ↔ ∃ k : Fin 7, k.val < s.alncnt.toNat ∧ s.align[k].toNat = p := by
  simp only [alignList, List.mem_map, List.mem_take_iff_getElem]
  constructor
  · rintro ⟨b, ⟨k, hk, rfl⟩, rfl⟩
    simp only [Vector.length_toList, Nat.lt_min] at hk
    exact ⟨⟨k, hk.2⟩, hk.1, by simp⟩
  · rintro ⟨k, hk, rfl⟩
    exact ⟨s.align[k], ⟨k, by simp [hk], by simp⟩, rfl⟩

/-- MBUILD's check of the coordinates is the claims' condition on the list (R150). -/
theorem alignOutOfRange_iff (s : State) : alignOutOfRange s = true ↔ ¬ alignLegal s := by
  simp only [alignOutOfRange, alignLegal, Bool.and_eq_true, Nat.ble_eq, List.any_eq_true,
    mem_alignList, Bool.or_eq_true, Nat.blt_eq, Config.SIZE]
  push Not
  constructor
  · rintro ⟨hv, _, ⟨k, hk, rfl⟩, h⟩
    exact ⟨hv, k, hk, by omega⟩
  · rintro ⟨hv, k, hk, h⟩
    exact ⟨hv, _, ⟨k, hk, rfl⟩, by omega⟩

/-- The numbers with no register (R101). -/
theorem readReg_eq_none_iff (s : State) (n : Nat) :
    readReg s n = none ↔ (11 ≤ n ∧ n ≤ 15) ∨ 22 < n := by
  by_cases hn : n ≤ 10
  · interval_cases n <;> simp [readReg]
  · obtain ⟨m, rfl⟩ := Nat.exists_eq_add_of_lt (Nat.not_le.1 hn)
    have hread : readReg s (10 + m + 1) =
        if 16 ≤ 10 + m + 1 then (s.align[10 + m + 1 - 16]?).map byteData else none := by
      rw [Nat.add_comm 10]; rfl
    by_cases h : 16 ≤ 10 + m + 1
    · simp [hread, h]; omega
    · simp [hread, h]; omega

theorem byte_toNat_eq_zero_iff (b : Byte) : b.toNat = 0 ↔ b = 0#8 := by
  rw [← BitVec.toNat_inj]; rfl

/-- Command `i` passes every check of R215 at `s`. -/
structure Accepted (i : Instr) (s : State) : Prop where
  seq : ¬ seqWhen i s
  arg : ¬ argWhen i s
  cap : ¬ capWhen i s

open Classical in
/-- The error table with the priorities of R213. -/
theorem exec_eq (i : Instr) (s : State) :
    exec i s =
      if seqWhen i s then raise .seq s
      else if argWhen i s then raise .arg s
      else if capWhen i s then raise .cap s
      else respond (dataOf i s) (effectOf i s) := by
  cases i
  case rdreg n =>
    cases h : readReg s n.toNat with
    | none => simp [exec, execRdreg, seqWhen, argWhen, h, (readReg_eq_none_iff s _).1 h]
    | some d =>
      have hn := (readReg_eq_none_iff s n.toNat).not.1 (by simp [h])
      simp [exec, execRdreg, seqWhen, argWhen, h, hn, dataOf, effectOf, capWhen]
  case cwpush | rsenc | encode =>
    simp only [exec, effectOf, dataOf, seqWhen, argWhen, capWhen, execCwpush, execRsenc,
      execEncode, alignOutOfRange_iff, byte_toNat_eq_zero_iff, ite_or, Config.CW_MAX]
    split_ifs <;> simp [*]
  all_goals
    simp [exec, effectOf, dataOf, seqWhen, argWhen, capWhen, execNop, execSetver, execSetecl,
      execSetalnc, execSetaln, execCwclr, execRdcw, execRdmod, execRdrsv, execClrerr,
      execSreset, execGfinit, execGfmul, execGfexp, execGflog, execRsgen, execRsclr, execRsbyte,
      execRdgen, execRdrem, execMbuild, execPlace, execMask, execBchenc, execFmtwr,
      alignOutOfRange_iff, byte_toNat_eq_zero_iff, ite_or]

theorem exec_of_seqWhen {i : Instr} {s : State} (h : seqWhen i s) : exec i s = raise .seq s := by
  rw [exec_eq, if_pos h]

theorem exec_of_argWhen {i : Instr} {s : State} (hs : ¬ seqWhen i s) (h : argWhen i s) :
    exec i s = raise .arg s := by
  rw [exec_eq, if_neg hs, if_pos h]

theorem exec_of_capWhen {i : Instr} {s : State} (hs : ¬ seqWhen i s) (ha : ¬ argWhen i s)
    (h : capWhen i s) : exec i s = raise .cap s := by
  rw [exec_eq, if_neg hs, if_neg ha, if_pos h]

theorem exec_of_accepted {i : Instr} {s : State} (h : Accepted i s) :
    exec i s = respond (dataOf i s) (effectOf i s) := by
  rw [exec_eq, if_neg h.seq, if_neg h.arg, if_neg h.cap]

/-- What a command can do: fail a check, or pass them all, have its effect and respond. -/
theorem exec_inversion {i : Instr} {s t : State} (h : exec i s = .next t) :
    (∃ e ≠ .ok, ¬ Accepted i s ∧ t = (s.latch e).emit (responseWord e 0#16)) ∨
      (Accepted i s ∧ t = (effectOf i s).emit (responseWord .ok (dataOf i s))) := by
  by_cases hs : seqWhen i s
  · rw [exec_of_seqWhen hs] at h
    exact .inl ⟨.seq, by decide, fun hacc => hacc.seq hs, raise_next h⟩
  by_cases ha : argWhen i s
  · rw [exec_of_argWhen hs ha] at h
    exact .inl ⟨.arg, by decide, fun hacc => hacc.arg ha, raise_next h⟩
  by_cases hc : capWhen i s
  · rw [exec_of_capWhen hs ha hc] at h
    exact .inl ⟨.cap, by decide, fun hacc => hacc.cap hc, raise_next h⟩
  · have hacc : Accepted i s := ⟨hs, ha, hc⟩
    rw [exec_of_accepted hacc] at h
    exact .inr ⟨hacc, respond_next h⟩

/-! ### What acceptance says -/

theorem accepted_setver {v : Byte} {s : State} (h : Accepted (.setver v) s) :
    1 ≤ v.toNat ∧ v.toNat ≤ 10 := by
  have harg := h.arg
  simp only [argWhen, not_or] at harg
  omega

theorem accepted_rsenc {s : State} (h : Accepted .rsenc s) :
    s.status.genv = true ∧ s.status.ecv = false ∧ s.cwlen.toNat + s.nec.toNat ≤ 512 := by
  have hseq := h.seq
  simp only [seqWhen, not_or, Bool.not_eq_false, Bool.not_eq_true] at hseq
  exact ⟨hseq.1, hseq.2, Nat.not_lt.1 h.cap⟩

theorem accepted_fmtwr {s : State} (h : Accepted .fmtwr s) :
    s.status.matv = true ∧ s.status.eclv = true := by
  have hseq := h.seq
  simp only [seqWhen, not_or, Bool.not_eq_false] at hseq
  exact hseq

theorem accepted_encode {n : Byte} {s : State} (h : Accepted (.encode n) s) :
    encodeReady n s := by
  obtain ⟨hseq, harg, hcap⟩ := h
  simp only [seqWhen, argWhen, not_or, Bool.not_eq_false, Bool.not_eq_true, not_not] at hseq harg
  obtain ⟨htblv, hverv, heclv, hecv⟩ := hseq
  exact ⟨htblv, hverv, heclv, hecv, mt (byte_toNat_eq_zero_iff n).2 harg.1, harg.2,
    Nat.not_lt.1 hcap⟩

end Sys2Proof.Machine
end

section
/-!
SUPPORT. ENCODE as its stages, and the two ways a property is shown of every step: one state, or two
runs side by side.
-/

namespace Sys2Proof.Machine

open Sys2Proof.Claims

/-! ### The remainder computed by RSENC -/

/-- The state after RSENC's divider has consumed CW[0..CWLEN-1] from a register of zeros (R137). -/
def divided (s : State) : State :=
  (List.range s.cwlen.toNat).foldl (fun t k => rsStep (readCw s k) t) (clearRem s.nec.toNat s)

/-- RSENC's last part: the remainder that `t` holds is appended to the buffer of `s` (R137). -/
def appendRemainder (s t : State) : State :=
  { t with
    cw := writeList t.cw s.cwlen.toNat ((List.range s.nec.toNat).map (readRem t))
    ndata := s.cwlen
    cwlen := s.cwlen + s.nec.setWidth 10
    status := { t.status with ecv := true } }

theorem rsencEffect_eq (s : State) : rsencEffect s = appendRemainder s (divided s) := rfl

/-! ### ENCODE and its stages -/

section
variable {n : Byte} {s : State} (h : encodeReady n s)
include h

theorem accepted_rsgen_of_ready : Accepted (.rsgen n) s := by
  obtain ⟨htblv, -, -, -, hn, -⟩ := h
  exact ⟨ne_false_of_eq_true htblv, mt (byte_toNat_eq_zero_iff n).1 hn, id⟩

theorem accepted_rsenc_of_ready : Accepted .rsenc (rsgenEffect n s) := by
  obtain ⟨-, -, -, hecv, -, -, hcap⟩ := h
  exact ⟨not_or.2 ⟨Bool.noConfusion, ne_true_of_eq_false hecv⟩, id, Nat.not_lt.2 hcap⟩

theorem accepted_mbuild_of_ready : Accepted .mbuild (rsencEffect (rsgenEffect n s)) := by
  obtain ⟨-, hverv, -, -, -, hlegal, -⟩ := h
  rw [rsencEffect_frame]
  exact ⟨ne_false_of_eq_true hverv, not_not.2 hlegal, id⟩

theorem accepted_fmtwr_of_ready : Accepted .fmtwr
    (maskEffect (placeEffect (mbuildEffect (rsencEffect (rsgenEffect n s))))) := by
  obtain ⟨-, -, heclv, -⟩ := h
  rw [rsencEffect_frame]
  exact ⟨not_or.2 ⟨Bool.noConfusion, ne_false_of_eq_true heclv⟩, id, id⟩

end

theorem accepted_place_of_mbuild (s : State) : Accepted .place (mbuildEffect s) :=
  ⟨Bool.noConfusion, id, id⟩

theorem accepted_mask_of_mbuild (s : State) : Accepted .mask (placeEffect (mbuildEffect s)) :=
  ⟨Bool.noConfusion, id, id⟩

/-- What two accepted runs of every single-stage command keep, two accepted runs of every command
keep. -/
theorem effectOf_rel {R : State → State → Prop}
    (hstage : ∀ i s s', (∀ n, i ≠ .encode n) → Accepted i s → Accepted i s' → R s s' →
      R (effectOf i s) (effectOf i s'))
    {i : Instr} {s s' : State} (hs : Accepted i s) (hs' : Accepted i s') (h : R s s') :
    R (effectOf i s) (effectOf i s') := by
  by_cases hi : ∃ n, i = .encode n
  · obtain ⟨n, rfl⟩ := hi
    have hr := accepted_encode hs
    have hr' := accepted_encode hs'
    have h1 := hstage (.rsgen n) s s' (by simp) (accepted_rsgen_of_ready hr)
      (accepted_rsgen_of_ready hr') h
    have h2 := hstage .rsenc _ _ (by simp) (accepted_rsenc_of_ready hr)
      (accepted_rsenc_of_ready hr') h1
    have h3 := hstage .mbuild _ _ (by simp) (accepted_mbuild_of_ready hr)
      (accepted_mbuild_of_ready hr') h2
    have h4 := hstage .place _ _ (by simp) (accepted_place_of_mbuild _)
      (accepted_place_of_mbuild _) h3
    have h5 := hstage .mask _ _ (by simp) (accepted_mask_of_mbuild _)
      (accepted_mask_of_mbuild _) h4
    exact hstage .fmtwr _ _ (by simp) (accepted_fmtwr_of_ready hr) (accepted_fmtwr_of_ready hr') h5
  · exact hstage i s s' (fun n hn => hi ⟨n, hn⟩) hs hs' h

/-! ### A step, by the host's next event -/

theorem step_of_nil {s : State} (h : s.inputs = []) : step s = .next s := by
  simp [step, nextEvent, h, idle]

theorem step_of_reset {s : State} {ev : HostEvent} {rest : List HostEvent}
    (h : s.inputs = ev :: rest) (hev : ev = .reset ∨ ∃ w, ev = .resetDuring w) :
    step s = .next s.dequeue.restart := by
  rcases hev with rfl | ⟨w, rfl⟩ <;> simp [step, nextEvent, h, execReset]

theorem step_of_illegal {s : State} {w : Word} {rest : List HostEvent} {e : Illegal}
    (h : s.inputs = .command w :: rest) (hd : decode w = .error e) :
    step s = raise .opcode s.dequeue := by
  simp [step, nextEvent, h, accept, hd, execIllegal]

theorem step_of_command {s : State} {w : Word} {rest : List HostEvent} {i : Instr}
    (h : s.inputs = .command w :: rest) (hd : decode w = .ok i) :
    step s = exec i s.dequeue := by
  simp [step, nextEvent, h, accept, hd]

/-! ### Properties of one state -/

/-- `P` does not look at the host's side of the ports or at the error latch. -/
structure CoreOnly (P : State → Prop) : Prop where
  dequeue : ∀ s, P s → P s.dequeue
  emit : ∀ s w, P s → P (s.emit w)
  latch : ∀ s e, P s → P (s.latch e)

theorem CoreOnly.and {P Q : State → Prop} (hP : CoreOnly P) (hQ : CoreOnly Q) :
    CoreOnly fun s => P s ∧ Q s :=
  ⟨fun s h => ⟨hP.dequeue s h.1, hQ.dequeue s h.2⟩,
    fun s w h => ⟨hP.emit s w h.1, hQ.emit s w h.2⟩,
    fun s e h => ⟨hP.latch s e h.1, hQ.latch s e h.2⟩⟩

/-- A property of the core that reset establishes and that every accepted single-stage command keeps
is kept by every step. -/
theorem step_keeps {P : State → Prop} (hcore : CoreOnly P) (hreset : ∀ s : State, P s.restart)
    (hstage : ∀ i s, (∀ n, i ≠ .encode n) → Accepted i s → P s → P (effectOf i s))
    {s t : State} (hs : P s) (h : step s = .next t) : P t := by
  have hexec : ∀ i s, P s → exec i s = .next t → P t := by
    intro i s hs h
    rcases exec_inversion h with ⟨e, -, -, rfl⟩ | ⟨hacc, rfl⟩
    · exact hcore.emit _ _ (hcore.latch _ _ hs)
    · refine hcore.emit _ _ (effectOf_rel (R := fun s s' => P s ∧ s = s') ?_ hacc hacc
        ⟨hs, rfl⟩).1
      rintro i s _ hi hacc - ⟨hs, rfl⟩
      exact ⟨hstage i s hi hacc hs, rfl⟩
  rcases step_cases s with ⟨-, hstep⟩ | ⟨_, _, -, -, hstep⟩ | ⟨_, _, _, -, -, hstep⟩ |
    ⟨_, _, i, -, -, hstep⟩ <;> rw [hstep] at h
  · exact Host.Outcome.next.inj h ▸ hs
  · exact Host.Outcome.next.inj h ▸ hreset _
  · rw [raise_next h]
    exact hcore.emit _ _ (hcore.latch _ _ (hcore.dequeue _ hs))
  · exact hexec i _ (hcore.dequeue _ hs) h

end Sys2Proof.Machine
end

section
/-!
SUPPORT. What PLACE, MASK and FMTWR can do to the grids, said once for two runs side by side: they
keep a relation of grids that the same write to the same cell of the matrix keeps. A property of one
grid is the case of two equal runs.
-/

namespace Sys2Proof.Machine

open Sys2Proof.Claims

/-- `R` is kept when both grids take the same write to a cell of a matrix of side `size`. -/
def WriteStable (size : Nat) (R : Grid → Grid → Prop) : Prop :=
  ∀ g g' r c b, r < size → c < size → R g g' → R (writeGrid g r c b) (writeGrid g' r c b)

/-- `Q` is kept by a write to a cell of a matrix of side `size`. -/
def WriteKept (size : Nat) (Q : Grid → Prop) : Prop :=
  ∀ g r c b, r < size → c < size → Q g → Q (writeGrid g r c b)

/-- Two grids list the same modules in a matrix of side `size`. -/
def AgreeOn (size : Nat) (g g' : Grid) : Prop :=
  ∀ r < size, ∀ c < size, readGrid g r c = readGrid g' r c

/-- Two equal grids with property `Q`. -/
def SameWith (Q : Grid → Prop) (g g' : Grid) : Prop := Q g ∧ g = g'

theorem WriteKept.writeStable {size : Nat} {Q : Grid → Prop} (h : WriteKept size Q) :
    WriteStable size (SameWith Q) := by
  rintro g _ r c b hr hc ⟨hg, rfl⟩
  exact ⟨h g r c b hr hc hg, rfl⟩

theorem writeStable_agreeOn (size n : Nat) : WriteStable size (AgreeOn n) := by
  intro g g' r c b _ _ h i hi j hj
  simp only [readGrid, writeGrid, readCell_writeCell]
  split
  · rfl
  · exact h i hi j hj

theorem writeStable_eq (size : Nat) : WriteStable size Eq := by
  rintro g _ r c b _ _ rfl
  rfl

theorem AgreeOn.readMod {size : Nat} {g g' : Grid} (h : AgreeOn size g g') {r c : Nat}
    (hr : r < size) (hc : c < size) : readMod g r c = readMod g' r c :=
  congrArg (Option.getD · _) (h r hr c hc)

theorem AgreeOn.readRsv {size : Nat} {g g' : Grid} (h : AgreeOn size g g') {r c : Nat}
    (hr : r < size) (hc : c < size) : readRsv g r c = readRsv g' r c :=
  congrArg (Option.getD · _) (h r hr c hc)

/-! ### PLACE -/

/-- Two traversals stand at the same cell of a matrix of side `size`, their grids related by `R`. -/
structure Traversal.Related (size : Nat) (R : Grid → Grid → Prop) (t t' : Traversal) : Prop where
  right : t.right = t'.right
  vert : t.vert = t'.vert
  j : t.j = t'.j
  up : t.up = t'.up
  k : t.k = t'.k
  done : t.done = t'.done
  right_lt : t.right < size
  vert_lt : t.vert < size
  mod : R t.mod t'.mod

theorem Traversal.row_lt {size : Nat} {t : Traversal} (h : t.vert < size) : t.row size < size := by
  unfold Traversal.row
  split <;> omega

theorem nextRight_le (right : Nat) : nextRight right ≤ right := by
  unfold nextRight
  split <;> omega

theorem Traversal.Related.advance {size : Nat} {R : Grid → Grid → Prop} {t t' : Traversal}
    (h : t.Related size R t') : (t.advance size).Related size R (t'.advance size) := by
  obtain ⟨right, vert, j, up, k, mod, done⟩ := t
  obtain ⟨_, _, _, _, _, mod', _⟩ := t'
  obtain ⟨rfl, rfl, rfl, rfl, rfl, rfl, hright, hvert, hmod⟩ := h
  have hnext : nextRight right < size := (nextRight_le right).trans_lt hright
  simp only at hvert
  unfold Traversal.advance
  simp only
  split_ifs
  · exact ⟨rfl, rfl, rfl, rfl, rfl, rfl, hright, hvert, hmod⟩
  · exact ⟨rfl, rfl, rfl, rfl, rfl, rfl, hright, (Nat.zero_le vert).trans_lt hvert, hmod⟩
  · exact ⟨rfl, rfl, rfl, rfl, rfl, rfl, hnext, (Nat.zero_le vert).trans_lt hvert, hmod⟩
  · exact ⟨rfl, rfl, rfl, rfl, rfl, rfl, hright, show vert + 1 < size by omega, hmod⟩

section
variable {s s' : State} {size : Nat} {R : Grid → Grid → Prop}

theorem placeStep_related (hR : WriteStable size R) (hbit : ∀ k, placedBit s k = placedBit s' k)
    (hrsv : ∀ r < size, ∀ c < size, readRsv s.rsv r c = readRsv s'.rsv r c) {t t' : Traversal}
    (h : t.Related size R t') :
    (placeStep s size t).Related size R (placeStep s' size t') := by
  have hrow : t'.row size = t.row size := by simp only [Traversal.row, h.up, h.vert]
  have hcol : t'.col = t.col := by simp only [Traversal.col, h.right, h.j]
  have hrow_lt : t.row size < size := Traversal.row_lt h.vert_lt
  have hcol_lt : t.col < size := (Nat.sub_le _ _).trans_lt h.right_lt
  unfold placeStep
  simp only [hrow, hcol, ← hrsv _ hrow_lt _ hcol_lt]
  apply Traversal.Related.advance
  split
  · exact h
  · refine { h with k := congrArg (· + 1) h.k, mod := ?_ }
    simp only [← h.k, ← hbit]
    exact hR _ _ _ _ _ hrow_lt hcol_lt h.mod

theorem placeRun_related (hR : WriteStable size R) (hbit : ∀ k, placedBit s k = placedBit s' k)
    (hrsv : ∀ r < size, ∀ c < size, readRsv s.rsv r c = readRsv s'.rsv r c) (fuel : Nat)
    {t t' : Traversal} (h : t.Related size R t') :
    (placeRun s size fuel t).Related size R (placeRun s' size fuel t') := by
  induction fuel generalizing t t' with
  | zero => exact h
  | succ fuel ih =>
    simp only [placeRun, ← h.done]
    split
    · exact h
    · exact ih (placeStep_related hR hbit hrsv h)

/-- Two traversals of matrices with the same side and the same reserved cells, filled with the same
bits, make the same writes. -/
theorem traverse_related (hsize : s.msize = s'.msize) (hR : WriteStable s.msize.toNat R)
    (hbit : ∀ k, placedBit s k = placedBit s' k)
    (hrsv : ∀ r < s.msize.toNat, ∀ c < s.msize.toNat,
      readRsv s.rsv r c = readRsv s'.rsv r c)
    (hmod : R s.mod s'.mod) :
    (traverse s).k = (traverse s').k ∧ R (traverse s).mod (traverse s').mod := by
  unfold traverse
  simp only [← hsize]
  by_cases h0 : s.msize.toNat = 0
  · simp only [h0, Nat.zero_mul, placeRun]
    exact ⟨rfl, hmod⟩
  · have hpos : 0 < s.msize.toNat := Nat.pos_of_ne_zero h0
    have h := placeRun_related hR hbit hrsv (s.msize.toNat * (s.msize.toNat - 1))
      (t := Traversal.start s.msize.toNat s.mod) (t' := Traversal.start s.msize.toNat s'.mod)
      ⟨rfl, rfl, rfl, rfl, rfl, rfl, Nat.sub_lt hpos Nat.one_pos, hpos, hmod⟩
    exact ⟨h.k, h.mod⟩

end

theorem traverse_mod_keeps {s : State} {Q : Grid → Prop} (hQ : WriteKept s.msize.toNat Q)
    (h : Q s.mod) : Q (traverse s).mod :=
  (traverse_related (R := SameWith Q) rfl hQ.writeStable (fun _ => rfl) (fun _ _ _ _ => rfl)
    ⟨h, rfl⟩).2.1

theorem Traversal.advance_k (size : Nat) (t : Traversal) : (t.advance size).k = t.k := by
  unfold Traversal.advance
  split_ifs <;> rfl

theorem placeStep_k_le (s : State) (size : Nat) (t : Traversal) :
    (placeStep s size t).k ≤ t.k + 1 := by
  unfold placeStep
  rw [Traversal.advance_k]
  split
  · exact Nat.le_succ _
  · exact Nat.le_refl _

theorem placeRun_k_le (s : State) (size fuel : Nat) (t : Traversal) :
    (placeRun s size fuel t).k ≤ t.k + fuel := by
  induction fuel generalizing t with
  | zero => exact Nat.le_refl _
  | succ fuel ih =>
    simp only [placeRun]
    split
    · omega
    · have h := ih (placeStep s size t)
      have hstep := placeStep_k_le s size t
      omega

theorem traverse_k_le (s : State) :
    (traverse s).k ≤ s.msize.toNat * (s.msize.toNat - 1) := by
  simpa only [traverse, Traversal.start, Nat.zero_add] using
    placeRun_k_le s s.msize.toNat _ (Traversal.start _ s.mod)

/-! ### MASK and FMTWR -/

/-- One cell of MASK in two runs that read the same there. -/
theorem maskCell_related {size : Nat} {R : Grid → Grid → Prop} (hR : WriteStable size R)
    (hread : ∀ g g', R g g' → ∀ r < size, ∀ c < size, readMod g r c = readMod g' r c)
    {rsv rsv' g g' : Grid} {rc : Nat × Nat} (hr : rc.1 < size) (hc : rc.2 < size)
    (hrsv : readRsv rsv rc.1 rc.2 = readRsv rsv' rc.1 rc.2) (h : R g g') :
    R (maskCell rsv g rc) (maskCell rsv' g' rc) := by
  unfold maskCell
  rw [← hrsv, ← hread g g' h _ hr _ hc]
  split
  · exact hR _ _ _ _ _ hr hc h
  · exact h

theorem mem_matrix {size : Nat} {rc : Nat × Nat} :
    rc ∈ block 0 0 size size ↔ rc.1 < size ∧ rc.2 < size := by
  rw [mem_block]; omega

theorem maskEffect_related {s s' : State} {R : Grid → Grid → Prop} (hsize : s.msize = s'.msize)
    (hR : WriteStable s.msize.toNat R)
    (hread : ∀ g g', R g g' → ∀ r < s.msize.toNat, ∀ c < s.msize.toNat,
      readMod g r c = readMod g' r c)
    (hrsv : ∀ r < s.msize.toNat, ∀ c < s.msize.toNat,
      readRsv s.rsv r c = readRsv s'.rsv r c)
    (hmod : R s.mod s'.mod) : R (maskEffect s).mod (maskEffect s').mod := by
  simp only [maskEffect, ← hsize]
  refine List.foldl_rel hmod fun rc hrc g g' h => ?_
  obtain ⟨hr, hc⟩ := mem_matrix.1 hrc
  exact maskCell_related hR hread hr hc (hrsv _ hr _ hc) h

theorem maskEffect_mod_keeps {s : State} {Q : Grid → Prop} (hQ : WriteKept s.msize.toNat Q)
    (h : Q s.mod) : Q (maskEffect s).mod :=
  (maskEffect_related (R := SameWith Q) rfl hQ.writeStable (by rintro _ _ ⟨-, rfl⟩ _ _ _ _; rfl)
    (fun _ _ _ _ => rfl) ⟨h, rfl⟩).1

theorem writeStrip_related {size : Nat} {R : Grid → Grid → Prop} (hR : WriteStable size R)
    (w : BitVec 15) {strip : List (Nat × Nat)} (hstrip : ∀ rc ∈ strip, rc.1 < size ∧ rc.2 < size)
    {g g' : Grid} (h : R g g') : R (writeStrip w strip g) (writeStrip w strip g') := by
  refine List.foldl_rel h fun p hp g g' h => ?_
  obtain ⟨hr, hc⟩ := hstrip p.1 (List.fst_mem_of_mem_zipIdx hp)
  exact hR _ _ _ _ _ hr hc h

theorem stripH_lt {size n : Nat} (hn : 9 ≤ n) (hsize : size ≤ n) {rc : Nat × Nat}
    (h : rc ∈ stripH size) : rc.1 < n ∧ rc.2 < n := by
  obtain ⟨c, hc, rfl⟩ := List.mem_map.1 h
  simp only [List.mem_cons, List.not_mem_nil, or_false] at hc ⊢
  omega

theorem stripV_lt {size n : Nat} (hn : 9 ≤ n) (hsize : size ≤ n) {rc : Nat × Nat}
    (h : rc ∈ stripV size) : rc.1 < n ∧ rc.2 < n := by
  obtain ⟨r, hr, rfl⟩ := List.mem_map.1 h
  simp only [List.mem_cons, List.not_mem_nil, or_false] at hr ⊢
  omega

theorem fmtwrEffect_related {s s' : State} {R : Grid → Grid → Prop} {n : Nat}
    (hsize : s.msize = s'.msize) (hecl : s.eclbits = s'.eclbits) (h9 : 9 ≤ n)
    (hn : s.msize.toNat ≤ n) (hR : WriteStable n R) (hmod : R s.mod s'.mod) :
    R (fmtwrEffect s).mod (fmtwrEffect s').mod := by
  simp only [fmtwrEffect, ← hsize, ← hecl]
  exact writeStrip_related hR _ (fun _ => stripV_lt h9 hn)
    (writeStrip_related hR _ (fun _ => stripH_lt h9 hn) hmod)

theorem fmtwrEffect_mod_keeps {s : State} {Q : Grid → Prop} {n : Nat} (h9 : 9 ≤ n)
    (hn : s.msize.toNat ≤ n) (hQ : WriteKept n Q) (h : Q s.mod) : Q (fmtwrEffect s).mod :=
  (fmtwrEffect_related (R := SameWith Q) rfl rfl h9 hn hQ.writeStable ⟨h, rfl⟩).1

end Sys2Proof.Machine
end

section
/-!
SUPPORT. MBUILD in two runs side by side (spec/43_matrix.md R150 to R161): every write is to a cell
of the matrix, and the only reads are of reserved flags of the matrix.
-/

namespace Sys2Proof.Machine

open Sys2Proof.Claims

/-- The two grids of two runs, related each by its own relation. -/
structure Grids.Related (Rm Rr : Grid → Grid → Prop) (g g' : Grids) : Prop where
  mod : Rm g.mod g'.mod
  rsv : Rr g.rsv g'.rsv

section
variable {size : Nat} {Rm Rr : Grid → Grid → Prop} (hm : WriteStable size Rm)
  (hr : WriteStable size Rr)
include hm hr

theorem stamp_related {g g' : Grids} {r c : Nat} {b : Bool} (hrow : r < size) (hcol : c < size)
    (h : g.Related Rm Rr g') : (stamp g r c b).Related Rm Rr (stamp g' r c b) :=
  ⟨hm _ _ _ _ _ hrow hcol h.mod, hr _ _ _ _ _ hrow hcol h.rsv⟩

theorem finder_related {r0 c0 : Nat} (hrow : r0 + 7 ≤ size)
    (hcol : c0 + 7 ≤ size) {g g' : Grids} (h : g.Related Rm Rr g') :
    (finder size r0 c0 g).Related Rm Rr (finder size r0 c0 g') := by
  have hsep : ∀ rc ∈ separatorCells size r0 c0, rc.1 < size ∧ rc.2 < size := by
    intro rc hrc
    simp only [separatorCells, List.mem_map, List.mem_filter, Bool.and_eq_true,
      Nat.blt_eq] at hrc
    obtain ⟨d, ⟨-, ⟨-, hd1⟩, hd2⟩, rfl⟩ := hrc
    exact ⟨hd1, hd2⟩
  refine List.foldl_rel (List.foldl_rel h ?_) ?_
  · intro d hd g g' h
    have hd := mem_block.1 hd
    exact stamp_related hm hr (by omega) (by omega) h
  · intro rc hrc g g' h
    exact stamp_related hm hr (hsep rc hrc).1 (hsep rc hrc).2 h

theorem timing_related (h8 : 8 ≤ size) {g g' : Grids} (h : g.Related Rm Rr g') :
    (timing size g).Related Rm Rr (timing size g') := by
  refine List.foldl_rel h fun i hi g g' h => ?_
  simp only [List.mem_map, List.mem_range] at hi
  exact stamp_related hm hr (by omega) (by omega)
    (stamp_related hm hr (by omega) (by omega) h)

theorem alignPattern_related {p : Nat × Nat} (hrow : 2 ≤ p.1 ∧ p.1 + 2 < size)
    (hcol : 2 ≤ p.2 ∧ p.2 + 2 < size) {g g' : Grids} (h : g.Related Rm Rr g') :
    (alignPattern p.1 p.2 g).Related Rm Rr (alignPattern p.1 p.2 g') := by
  refine List.foldl_rel h fun d hd g g' h => ?_
  have hd := mem_block.1 hd
  exact stamp_related hm hr (by omega) (by omega) h

theorem tryAlign_related
    (hread : ∀ g g', Rr g g' → ∀ r < size, ∀ c < size, readRsv g r c = readRsv g' r c)
    {p : Nat × Nat} (hrow : 2 ≤ p.1 ∧ p.1 + 2 < size) (hcol : 2 ≤ p.2 ∧ p.2 + 2 < size)
    {g g' : Grids} (h : g.Related Rm Rr g') :
    (tryAlign g p).Related Rm Rr (tryAlign g' p) := by
  have hany : (footprint p.1 p.2).any (fun rc => readRsv g.rsv rc.1 rc.2) =
      (footprint p.1 p.2).any fun rc => readRsv g'.rsv rc.1 rc.2 := by
    rw [Bool.eq_iff_iff, List.any_eq_true, List.any_eq_true]
    refine exists_congr fun rc => and_congr_right fun hrc => ?_
    have hrc := mem_block.1 hrc
    rw [hread _ _ h.rsv _ (by omega) _ (by omega)]
  unfold tryAlign
  rw [hany]
  split
  · exact h
  · exact alignPattern_related hm hr hrow hcol h

theorem alignments_related
    (hread : ∀ g g', Rr g g' → ∀ r < size, ∀ c < size, readRsv g r c = readRsv g' r c)
    {list : List Nat} (hlist : ∀ p ∈ list, 2 ≤ p ∧ p + 2 < size) {g g' : Grids}
    (h : g.Related Rm Rr g') : (alignments list g).Related Rm Rr (alignments list g') := by
  refine List.foldl_rel h fun p hp g g' h => ?_
  obtain ⟨a, ha, hp⟩ := List.mem_flatMap.1 hp
  obtain ⟨b, hb, rfl⟩ := List.mem_map.1 hp
  exact tryAlign_related hm hr hread (hlist a ha) (hlist b hb) h

omit hm in
theorem reserveFormat_related (h9 : 9 ≤ size) {g g' : Grids} (h : g.Related Rm Rr g') :
    (reserveFormat size g).Related Rm Rr (reserveFormat size g') := by
  refine List.foldl_rel h fun rc hrc g g' h => ⟨h.mod, hr _ _ _ _ _ ?_ ?_ h.rsv⟩ <;>
  · simp only [formatCells, List.mem_append, List.mem_flatMap, List.mem_map, List.mem_range,
      List.mem_cons, List.not_mem_nil, or_false] at hrc
    rcases hrc with (⟨i, hi, rfl | rfl⟩ | ⟨i, hi, rfl⟩) | ⟨i, hi, rfl⟩ <;> (simp only; omega)

end

/-- Two runs of the builder with the same version and list, from grids that are related once the
matrix has been allocated. -/
theorem buildMatrix_related {version : Nat} {list : List Nat} {Rm Rr : Grid → Grid → Prop}
    (hm : WriteStable (Config.SIZE version) Rm) (hr : WriteStable (Config.SIZE version) Rr)
    (hread : ∀ g g', Rr g g' → ∀ r < Config.SIZE version, ∀ c < Config.SIZE version,
      readRsv g r c = readRsv g' r c)
    (hlist : 2 ≤ version → ∀ p ∈ list, 2 ≤ p ∧ p + 2 < Config.SIZE version) {g g' : Grids}
    (h : (allocate (Config.SIZE version) g).Related Rm Rr
      (allocate (Config.SIZE version) g')) :
    (buildMatrix version list g).Related Rm Rr (buildMatrix version list g') := by
  have hsize : 17 ≤ Config.SIZE version := Nat.le_add_right 17 _
  unfold buildMatrix
  generalize Config.SIZE version = size at *
  refine reserveFormat_related hr (by omega) (stamp_related hm hr (by omega) (by omega) ?_)
  have htiming := timing_related hm hr (by omega) <|
    finder_related hm hr (r0 := size - 7) (c0 := 0) (by omega) (by omega) <|
    finder_related hm hr (r0 := 0) (c0 := size - 7) (by omega) (by omega) <|
    finder_related hm hr (r0 := 0) (c0 := 0) (by omega) (by omega) h
  split
  · next hv => exact alignments_related hm hr hread (hlist hv) htiming
  · exact htiming

/-- A relation of grids that writes to the matrix keep holds after `allocate`. -/
theorem allocate_related {size : Nat} {Rm Rr : Grid → Grid → Prop} (hm : WriteStable size Rm)
    (hr : WriteStable size Rr) {g g' : Grids} (h : g.Related Rm Rr g') :
    (allocate size g).Related Rm Rr (allocate size g') := by
  refine List.foldl_rel h fun rc hrc g g' h => ?_
  obtain ⟨hrow, hcol⟩ := mem_matrix.1 hrc
  exact ⟨hm _ _ _ _ _ hrow hcol h.mod, hr _ _ _ _ _ hrow hcol h.rsv⟩

/-- A fold one of whose steps establishes a property that all its steps keep ends with it. -/
theorem foldl_establishes {β γ : Type} {P : β → Prop} {f : β → γ → β} {l : List γ} {c : γ}
    (hc : c ∈ l) (hset : ∀ b, P (f b c)) (hkeep : ∀ b d, P b → P (f b d)) (b : β) :
    P (l.foldl f b) := by
  obtain ⟨l₁, l₂, rfl⟩ := List.append_of_mem hc
  rw [List.foldl_append, List.foldl_cons]
  exact foldl_keeps (hset _) fun b hb d _ => hkeep b d hb

theorem readGrid_writeGrid_eq_some {g : Grid} {r c : Nat} {b : Bool} (h : readGrid g r c = some b)
    (r' c' : Nat) : readGrid (writeGrid g r' c' b) r c = some b := by
  simp only [readGrid, writeGrid, readCell_writeCell] at h ⊢
  split
  · rfl
  · exact h

/-- Every cell that `allocate` visits is light and free afterwards (R152). -/
theorem allocate_reads {size : Nat} (g : Grids) {r c : Nat} (hr : r < size) (hc : c < size) :
    readGrid (allocate size g).mod r c = some false ∧
      readGrid (allocate size g).rsv r c = some false := by
  refine foldl_establishes
    (P := fun g : Grids => readGrid g.mod r c = some false ∧ readGrid g.rsv r c = some false)
    (mem_matrix.2 (show (r, c).1 < size ∧ (r, c).2 < size from ⟨hr, hc⟩)) (fun g => ?_) ?_ g
  · simp [readGrid, writeGrid]
  · rintro g d ⟨hmod, hrsv⟩
    exact ⟨readGrid_writeGrid_eq_some hmod _ _, readGrid_writeGrid_eq_some hrsv _ _⟩

/-- Two matrices of the same side agree once allocated, whatever was there (R152). -/
theorem allocate_agreeOn (size : Nat) (g g' : Grids) :
    (allocate size g).Related (AgreeOn size) (AgreeOn size) (allocate size g') := by
  refine ⟨fun r hr c hc => ?_, fun r hr c hc => ?_⟩
  · rw [(allocate_reads g hr hc).1, (allocate_reads g' hr hc).1]
  · rw [(allocate_reads g hr hc).2, (allocate_reads g' hr hc).2]

/-- The list of an accepted MBUILD keeps every footprint inside the matrix (R150). -/
theorem alignList_inside {s : State} (h : alignLegal s) (hv : 2 ≤ s.version.toNat) :
    ∀ p ∈ alignList s, 2 ≤ p ∧ p + 2 < Config.SIZE s.version.toNat := by
  intro p hp
  obtain ⟨k, hk, rfl⟩ := mem_alignList.1 hp
  have hlegal := h hv k hk
  simp only [Config.SIZE]
  omega

theorem mbuildEffect_related {s s' : State} {Rm Rr : Grid → Grid → Prop}
    (hversion : s.version = s'.version) (hlist : alignList s = alignList s')
    (hlegal : alignLegal s) (hm : WriteStable (Config.SIZE s.version.toNat) Rm)
    (hr : WriteStable (Config.SIZE s.version.toNat) Rr)
    (hread : ∀ g g', Rr g g' → ∀ r < Config.SIZE s.version.toNat,
      ∀ c < Config.SIZE s.version.toNat, readRsv g r c = readRsv g' r c)
    (h : (allocate (Config.SIZE s.version.toNat) ⟨s.mod, s.rsv⟩).Related Rm Rr
      (allocate (Config.SIZE s.version.toNat) ⟨s'.mod, s'.rsv⟩)) :
    Rm (mbuildEffect s).mod (mbuildEffect s').mod ∧
      Rr (mbuildEffect s).rsv (mbuildEffect s').rsv := by
  simp only [mbuildEffect, ← hversion, ← hlist]
  have hg := buildMatrix_related hm hr hread (alignList_inside hlegal) h
  exact ⟨hg.mod, hg.rsv⟩

theorem mbuildEffect_keeps {s : State} {Q : Grid → Prop} (hlegal : alignLegal s)
    (hQ : WriteKept (Config.SIZE s.version.toNat) Q) (hmod : Q s.mod) (hrsv : Q s.rsv) :
    Q (mbuildEffect s).mod ∧ Q (mbuildEffect s).rsv := by
  obtain ⟨hm, hr⟩ := mbuildEffect_related (s := s) (s' := s) rfl rfl hlegal hQ.writeStable
    hQ.writeStable (by rintro _ _ ⟨-, rfl⟩ _ _ _ _; rfl)
    (allocate_related hQ.writeStable hQ.writeStable ⟨⟨hmod, rfl⟩, ⟨hrsv, rfl⟩⟩)
  exact ⟨hm.1, hr.1⟩

end Sys2Proof.Machine
end

section
/-!
SUPPORT. The powers of 2 in the field (spec/41_gf.md R110 to R112) and the tables the builder leaves
(R111).
-/

namespace Sys2Proof.Machine

open Sys2Proof.Claims

theorem gfPower_eq_iterate (i : Nat) : gfPower i = gfTimes2^[i] 1#8 := by
  induction i with
  | zero => rfl
  | succ i ih => rw [Function.iterate_succ_apply', ← ih]; rfl

/-- Doubling has the order 255 on 1: its period divides 255 and none of 85, 51 and 15 (R112). -/
theorem minimalPeriod_gfTimes2 : Function.minimalPeriod gfTimes2 1#8 = 255 := by
  have hdvd : Function.minimalPeriod gfTimes2 1#8 ∣ 255 :=
    Function.IsPeriodicPt.minimalPeriod_dvd (show gfTimes2^[255] 1#8 = 1#8 by decide +kernel)
  have hnot : ∀ n ∈ [85, 51, 15], ¬ Function.minimalPeriod gfTimes2 1#8 ∣ n := by
    intro n hn h
    have hperiodic : gfTimes2^[n] 1#8 = 1#8 :=
      (Function.isPeriodicPt_iff_minimalPeriod_dvd).2 h
    clear h
    revert n
    decide +kernel
  generalize Function.minimalPeriod gfTimes2 1#8 = p at *
  have hp : p ≤ 255 := Nat.le_of_dvd (by decide) hdvd
  revert hdvd hnot
  revert p
  decide +kernel

theorem gfPower_injOn {i j : Nat} (hi : i < 255) (hj : j < 255) (h : gfPower i = gfPower j) :
    i = j := by
  rw [gfPower_eq_iterate, gfPower_eq_iterate] at h
  exact (Function.iterate_injOn_Iio_minimalPeriod (f := gfTimes2) (x := 1#8))
    (by rw [minimalPeriod_gfTimes2]; exact hi) (by rw [minimalPeriod_gfTimes2]; exact hj) h

theorem gfTimes2_ne_zero {b : Byte} (h : b ≠ 0#8) : gfTimes2 b ≠ 0#8 := by
  revert b
  decide +kernel

theorem gfPower_ne_zero (i : Nat) : gfPower i ≠ 0#8 := by
  induction i with
  | zero => decide
  | succ i ih => exact gfTimes2_ne_zero ih

/-- 255 distinct non-zero bytes are all the non-zero bytes (R112 (b)). -/
theorem exists_gfPower_eq {a : Byte} (ha : a ≠ 0#8) : ∃ i < 255, gfPower i = a := by
  have hsurj := Finset.surj_on_of_inj_on_of_card_le (s := Finset.range 255)
    (t := Finset.univ.erase 0#8) (fun i _ => gfPower i)
    (fun i _ => Finset.mem_erase.2 ⟨gfPower_ne_zero i, Finset.mem_univ _⟩)
    (fun i j hi hj h => gfPower_injOn (Finset.mem_range.1 hi) (Finset.mem_range.1 hj) h)
    (by simp [Finset.card_erase_of_mem, ← FinEnum.card_eq_fintypeCard])
  obtain ⟨i, hi, h⟩ := hsurj a (Finset.mem_erase.2 ⟨ha, Finset.mem_univ _⟩)
  exact ⟨i, Finset.mem_range.1 hi, h.symm⟩

/-- The builder's 9-bit doubling is the doubling of bytes (R111). -/
theorem gfDouble_setWidth (b : Byte) : gfDouble (b.setWidth 9) = (gfTimes2 b).setWidth 9 := by
  revert b
  decide +kernel

theorem gfPower_toNat_pos (i : Nat) : 1 ≤ (gfPower i).toNat :=
  Nat.one_le_iff_ne_zero.2 fun h => gfPower_ne_zero i ((byte_toNat_eq_zero_iff _).1 h)

/-! ### The table builder -/

/-- One iteration of the builder from a power of 2 (R111). -/
theorem buildTables_succ (n i : Nat) (exp log : Memory) :
    buildTables (n + 1) i ((gfPower i).setWidth 9) exp log =
      buildTables n (i + 1) ((gfPower (i + 1)).setWidth 9) (writeCell exp i (gfPower i))
        (writeCell log (gfPower i).toNat (BitVec.ofNat 8 i)) := by
  have hbyte : ((gfPower i).setWidth 9).setWidth 8 = gfPower i := by
    simp [BitVec.setWidth_setWidth_of_le]
  have hnat : ((gfPower i).setWidth 9).toNat = (gfPower i).toNat := by
    rw [BitVec.toNat_setWidth, Nat.mod_eq_of_lt]
    exact (gfPower i).isLt.trans (by decide)
  rw [buildTables, gfDouble_setWidth, hbyte, hnat]
  rfl

/-- A property of the two memories that the builder's writes keep holds of the tables it leaves. -/
theorem buildTables_keeps {P : Memory × Memory → Prop} {n i : Nat} {exp log : Memory}
    (h : P (exp, log))
    (hwrite : ∀ exp log k, i ≤ k → k < i + n → P (exp, log) →
      P (writeCell exp k (gfPower k), writeCell log (gfPower k).toNat (BitVec.ofNat 8 k))) :
    P (buildTables n i ((gfPower i).setWidth 9) exp log) := by
  induction n generalizing i exp log with
  | zero => exact h
  | succ n ih =>
    rw [buildTables_succ]
    exact ih (hwrite exp log i (Nat.le_refl i) (by omega) h)
      fun exp log k hk hkn => hwrite exp log k (by omega) (by omega)

theorem readCell_buildTables_exp (n i : Nat) (exp log : Memory) (a : Nat) :
    readCell (buildTables n i ((gfPower i).setWidth 9) exp log).1 a =
      if i ≤ a ∧ a < i + n then some (gfPower a) else readCell exp a := by
  induction n generalizing i exp log with
  | zero => simp [buildTables]
  | succ n ih =>
    rw [buildTables_succ, ih, readCell_writeCell]
    by_cases ha : a = i
    · subst ha; simp
    · have hiff : (i + 1 ≤ a ∧ a < i + 1 + n) ↔ (i ≤ a ∧ a < i + (n + 1)) := by omega
      simp only [hiff, if_neg ha]

/-- An index that is no power of 2 of the range keeps its element of LOG. -/
theorem readCell_buildTables_log_other {n i : Nat} (exp log : Memory) {a : Nat}
    (ha : ∀ k, i ≤ k → k < i + n → a ≠ (gfPower k).toNat) :
    readCell (buildTables n i ((gfPower i).setWidth 9) exp log).2 a = readCell log a :=
  buildTables_keeps (P := fun m => readCell m.2 a = readCell log a) rfl
    fun _ _ k hk hkn h => by rw [readCell_writeCell_other _ _ (ha k hk hkn), h]

theorem readCell_buildTables_log {n i : Nat} (exp log : Memory) {k : Nat} (hik : i ≤ k)
    (hkn : k < i + n) (hn : i + n ≤ 255) :
    readCell (buildTables n i ((gfPower i).setWidth 9) exp log).2 (gfPower k).toNat =
      some (BitVec.ofNat 8 k) := by
  induction n generalizing i exp log with
  | zero => omega
  | succ n ih =>
    rw [buildTables_succ]
    by_cases hki : k = i
    · subst hki
      rw [readCell_buildTables_log_other, readCell_writeCell_same]
      intro j hj hjn h
      have := gfPower_injOn (by omega) (by omega) (BitVec.eq_of_toNat_eq h)
      omega
    · exact ih _ _ (by omega) (by omega) (by omega)

/-! ### GFINIT -/

theorem setWidth_gfPower_zero : (gfPower 0).setWidth 9 = 1#9 := by decide

theorem gfinitEffect_exp (s : State) :
    (gfinitEffect s).exp = (buildTables 255 0 ((gfPower 0).setWidth 9) s.exp s.log).1 := by
  simp only [gfinitEffect, Config.GF_ORDER, setWidth_gfPower_zero]

theorem gfinitEffect_log (s : State) :
    (gfinitEffect s).log = (buildTables 255 0 ((gfPower 0).setWidth 9) s.exp s.log).2 := by
  simp only [gfinitEffect, Config.GF_ORDER, setWidth_gfPower_zero]

/-- What the builder's writes keep of EXP and of LOG, GFINIT keeps. -/
theorem gfinitEffect_keeps {Pexp Plog : Memory → Prop} {s : State} (hexp : Pexp s.exp)
    (hlog : Plog s.log)
    (hwexp : ∀ m k, k < 255 → Pexp m → Pexp (writeCell m k (gfPower k)))
    (hwlog : ∀ m k, k < 255 → Plog m → Plog (writeCell m (gfPower k).toNat (BitVec.ofNat 8 k))) :
    Pexp (gfinitEffect s).exp ∧ Plog (gfinitEffect s).log := by
  rw [gfinitEffect_exp, gfinitEffect_log]
  exact buildTables_keeps (P := fun m => Pexp m.1 ∧ Plog m.2) ⟨hexp, hlog⟩
    fun _ _ k _ hk hm => ⟨hwexp _ k (by omega) hm.1, hwlog _ k (by omega) hm.2⟩

theorem readCell_gfinitEffect_exp (s : State) (a : Nat) :
    readCell (gfinitEffect s).exp a =
      if a < 255 then some (gfPower a) else readCell s.exp a := by
  simp [gfinitEffect_exp, readCell_buildTables_exp]

theorem readCell_gfinitEffect_log (s : State) {i : Nat} (hi : i < 255) :
    readCell (gfinitEffect s).log (gfPower i).toNat = some (BitVec.ofNat 8 i) := by
  rw [gfinitEffect_log]
  exact readCell_buildTables_log s.exp s.log (Nat.zero_le i) (by omega) (by omega)

theorem readCell_gfinitEffect_log_other (s : State) {a : Nat} (ha : a = 0 ∨ 256 ≤ a) :
    readCell (gfinitEffect s).log a = readCell s.log a := by
  rw [gfinitEffect_log]
  refine readCell_buildTables_log_other s.exp s.log fun k _ _ => ?_
  have hpos := gfPower_toNat_pos k
  have hlt := (gfPower k).isLt
  omega

end Sys2Proof.Machine
end

section
/-!
SUPPORT. The Reed-Solomon coder: which elements of the tables its arithmetic reads, the generator
that RSGEN leaves (spec/42_rs.md R131, R133), and what a division step leaves of REM (R135, R137).
-/

namespace Sys2Proof.Machine

open Sys2Proof.Claims

/-! ### Arithmetic reads EXP[0..254] and LOG[1..255] -/

/-- The tables of `s` and `s'` read the same wherever the arithmetic looks. -/
structure SameTables (s s' : State) : Prop where
  exp : ∀ i < 255, readExp s i = readExp s' i
  log : ∀ a : Byte, a ≠ 0#8 → readLog s a.toNat = readLog s' a.toNat

section
variable {s s' : State} (h : SameTables s s')
include h

theorem SameTables.gfmul (a b : Byte) : gfmul s a b = gfmul s' a b := by
  unfold Machine.gfmul
  split
  · rfl
  · next hab =>
    rw [not_or] at hab
    rw [h.log a hab.1, h.log b hab.2]
    exact h.exp _ (Nat.mod_lt _ (by decide))

theorem SameTables.genArray {n : Nat} (hn : n ≤ 255) : genArray s n = genArray s' n := by
  refine List.foldl_rel (r := Eq) rfl fun i hi g g' hg => ?_
  have hi : i < 255 := (List.mem_range.1 hi).trans_le hn
  simp only [hg, genStep, h.gfmul, h.exp i hi]

theorem SameTables.genCoeff {n : Nat} (hn : n ≤ 255) (j : Nat) :
    genCoeff s n j = genCoeff s' n j := by
  induction n generalizing j with
  | zero => rfl
  | succ n ih =>
    simp only [Machine.genCoeff, ih (by omega), h.gfmul, h.exp n (by omega)]

end

theorem sameTables_of_eq {s s' : State} (hexp : s.exp = s'.exp) (hlog : s.log = s'.log) :
    SameTables s s' :=
  ⟨fun i _ => by rw [readExp, readExp, hexp], fun a _ => by rw [readLog, readLog, hlog]⟩

/-- Tables that are built read the same in any two states (R112). -/
theorem sameTables_of_tabled {s s' : State} (hs : tabled s) (hs' : tabled s') :
    SameTables s s' := by
  obtain ⟨hv, hs⟩ := hs
  obtain ⟨hv', hs'⟩ := hs'
  refine ⟨fun i hi => by rw [readExp, readExp, hs.exp hv i hi, hs'.exp hv' i hi], fun a ha => ?_⟩
  obtain ⟨i, hi, rfl⟩ := exists_gfPower_eq ha
  rw [readLog, readLog, hs.log hv i hi, hs'.log hv' i hi]

/-! ### The generator -/

theorem genArray_succ (s : State) (n : Nat) :
    genArray s (n + 1) = genStep s (readExp s n) (genArray s n) := by
  simp [genArray, List.range_succ]

@[simp] theorem length_genArray (s : State) (n : Nat) : (genArray s n).length = n + 1 := by
  induction n with
  | zero => rfl
  | succ n ih => simp [genArray_succ, genStep, ih]

/-- The array the generator builder leaves is the recurrence of R131, element by element. -/
theorem getElem?_genArray (s : State) {n j : Nat} (hj : j ≤ n) :
    (genArray s n)[j]? = some (genCoeff s n j) := by
  induction n generalizing j with
  | zero => obtain rfl : j = 0 := by omega
            rfl
  | succ n ih =>
    have hleft : (genArray s n ++ [0#8])[j]? = some (if j ≤ n then genCoeff s n j else 0#8) := by
      split
      · next hjn => rw [List.getElem?_append_left (by simp; omega), ih hjn]
      · obtain rfl : j = n + 1 := by omega
        simp
    have hright : (0#8 :: (genArray s n).map fun c => gfmul s c (readExp s n))[j]? =
        some (if 1 ≤ j then gfmul s (genCoeff s n (j - 1)) (readExp s n) else 0#8) := by
      cases j with
      | zero => rfl
      | succ j => simp [ih (show j ≤ n by omega)]
    rw [genArray_succ, genStep, List.getElem?_zipWith, hleft, hright, genCoeff]

theorem readCell_rsgenEffect_gen (n : Byte) (s : State) {j : Nat} (hj : j ≤ n.toNat) :
    readCell (rsgenEffect n s).gen j = some (genCoeff s n.toNat j) := by
  have h := readCell_writeList (genArray s n.toNat) s.gen 0 j
  rw [length_genArray, if_pos (by omega), Nat.sub_zero, getElem?_genArray s hj] at h
  exact h

/-! ### The remainder register -/

theorem readCell_clearRem (n : Nat) (s : State) (j : Nat) :
    readCell (clearRem n s).rem j = if j < n then some 0#8 else readCell s.rem j := by
  simp only [clearRem, readCell_writeList, List.length_replicate, Nat.zero_le, true_and,
    Nat.zero_add, Nat.sub_zero]
  split
  · next h => simp [h]
  · rfl

theorem readCell_rsStep (b : Byte) (s : State) (j : Nat) :
    readCell (rsStep b s).rem j =
      if j < s.nec.toNat then some (rsSlot s s.nec.toNat (readRem s 0 ^^^ b) j)
      else readCell s.rem j := by
  simp only [rsStep, readCell_writeList, List.length_map, List.length_range, Nat.zero_le,
    true_and, Nat.zero_add, Nat.sub_zero]
  split
  · next h => simp [h]
  · rfl

theorem divided_frame (s : State) : divided s = { s with rem := (divided s).rem } := by
  unfold divided
  rw [foldl_rsStep_frame]
  rfl

/-- A property of states with the degree of `s` that the divider's operations keep. -/
theorem divided_keeps {P : State → Prop} {s : State} (hclear : P (clearRem s.nec.toNat s))
    (hstep : ∀ t b, t.nec = s.nec → P t → P (rsStep b t)) : P (divided s) := by
  have h : (divided s).nec = s.nec ∧ P (divided s) :=
    foldl_keeps (P := fun t : State => t.nec = s.nec ∧ P t) ⟨rfl, hclear⟩
      fun t ht _ _ => ⟨ht.1, hstep t _ ht.1 ht.2⟩
  exact h.2

@[simp] theorem rsencEffect_rem (s : State) : (rsencEffect s).rem = (divided s).rem := rfl

@[simp] theorem rsencEffect_cw (s : State) : (rsencEffect s).cw =
    writeList s.cw s.cwlen.toNat ((List.range s.nec.toNat).map (readRem (divided s))) := by
  rw [rsencEffect_eq, appendRemainder, divided_frame]

/-- RSENC appends the remainder behind the data (R137). -/
theorem readCell_rsencEffect_cw (s : State) (i : Nat) : readCell (rsencEffect s).cw i =
    if s.cwlen.toNat ≤ i ∧ i < s.cwlen.toNat + s.nec.toNat then
      some (readRem (divided s) (i - s.cwlen.toNat))
    else readCell s.cw i := by
  simp only [rsencEffect_cw, readCell_writeList, List.length_map, List.length_range]
  split
  · rw [List.getElem?_map, List.getElem?_range (by omega)]
    rfl
  · rfl

/-- A change `u` of the state that the divider does not see is still there after it. -/
theorem divided_comm {u : State → State} {s : State}
    (hstep : ∀ b t, rsStep b (u t) = u (rsStep b t) := by exact fun _ _ => rfl)
    (hclear : clearRem (u s).nec.toNat (u s) = u (clearRem s.nec.toNat s) := by rfl)
    (hcwlen : (u s).cwlen = s.cwlen := by rfl) (hcw : (u s).cw = s.cw := by rfl) :
    divided (u s) = u (divided s) := by
  unfold divided
  rw [hclear, hcwlen]
  refine List.foldl_rel (r := fun t t' => t = u t') rfl fun k _ t t' h => ?_
  rw [h, hstep, readCw, readCw, hcw]

end Sys2Proof.Machine
end

section
/-!
SUPPORT. The step invariants (spec/10_state.md R22 to R35): what each accepted command does to the
registers, the stage flags, the form and the bounds of the memories, and the tables.
-/

namespace Sys2Proof.Machine

open Sys2Proof.Claims

/-! ### Flags -/

theorem coreOnly_flagsConsistent : CoreOnly State.FlagsConsistent :=
  ⟨fun _ h => { h with }, fun _ _ h => { h with }, fun _ _ h => { h with }⟩

theorem flagsConsistent_restart (s : State) : s.restart.FlagsConsistent := by
  constructor <;> simp [State.reset, Status.reset]

/-- The byte of an accepted SETVER fits VERSION's four bits (R92). -/
theorem toNat_setver {v : Byte} {s : State} (h : Accepted (.setver v) s) :
    (v.setWidth 4).toNat = v.toNat := by
  have hv := accepted_setver h
  rw [BitVec.toNat_setWidth]
  omega

theorem ofNat_size_ne_zero (version : BitVec 4) :
    BitVec.ofNat 6 (Config.SIZE version.toNat) ≠ 0#6 := by
  revert version
  decide

theorem flagsConsistent_effectOf {i : Instr} {s : State} (hi : ∀ n, i ≠ .encode n)
    (hacc : Accepted i s) (h : s.FlagsConsistent) : (effectOf i s).FlagsConsistent := by
  cases i with
  | encode n => exact absurd rfl (hi n)
  | sreset => exact flagsConsistent_restart s
  | setver v =>
    have hne : v.setWidth 4 ≠ 0#4 := by
      have hpos := (accepted_setver hacc).1
      rw [← toNat_setver hacc] at hpos
      intro h0
      simp [h0] at hpos
    exact { h with verv := iff_of_true rfl hne }
  | setecl e => exact { h with eclv := Bool.noConfusion }
  | cwclr => exact { h with ecv_genv := Bool.noConfusion, ecv_ndata := fun _ => rfl }
  | gfinit => exact { h with genv_tblv := fun _ => rfl }
  | rsgen n =>
    have hn : n ≠ 0#8 := mt (byte_toNat_eq_zero_iff n).2 hacc.arg
    have htblv : s.status.tblv = true := eq_true_of_ne_false hacc.seq
    exact { h with
      genv := iff_of_true rfl hn, genv_tblv := fun _ => htblv, ecv_genv := fun _ => rfl }
  | rsenc =>
    rw [effectOf, rsencEffect_frame]
    exact { h with
      ecv_genv := fun _ => (accepted_rsenc hacc).1, ecv_ndata := Bool.noConfusion }
  | mbuild =>
    exact { h with
      matv := iff_of_true rfl (ofNat_size_ne_zero s.version)
      placed := Bool.noConfusion, masked := Bool.noConfusion, fmtd := Bool.noConfusion
      unplaced := fun _ => rfl, plshort := Bool.noConfusion, plover := Bool.noConfusion
      mismatch := fun hm => Bool.noConfusion hm.1 }
  | place =>
    have hmatv : s.status.matv = true := eq_true_of_ne_false hacc.seq
    refine { h with
      placed := fun _ => hmatv, masked := Bool.noConfusion, unplaced := Bool.noConfusion
      plshort := fun _ => rfl, plover := fun _ => rfl, mismatch := ?_ }
    simp only [effectOf, placeEffect, Status.afterPlace, decide_eq_true_eq]
    omega
  | mask =>
    have hmatv : s.status.matv = true := eq_true_of_ne_false hacc.seq
    exact { h with masked := fun _ => hmatv }
  | fmtwr => exact { h with fmtd := fun _ => (accepted_fmtwr hacc).1 }
  | _ => exact { h with }

/-! ### Registers -/

theorem coreOnly_registersLegal : CoreOnly State.RegistersLegal :=
  ⟨fun _ h => { h with }, fun _ _ h => { h with }, fun _ _ h => { h with }⟩

theorem registersLegal_restart (s : State) : s.restart.RegistersLegal := by
  constructor <;> simp [State.reset]

/-- The side of an accepted MBUILD is that of its version (R150). -/
theorem size_legal {s : State} (hr : s.RegistersLegal) (hf : s.FlagsConsistent)
    (hverv : s.status.verv = true) :
    1 ≤ s.version.toNat ∧ s.version.toNat ≤ 10 ∧
      (BitVec.ofNat 6 (Config.SIZE s.version.toNat)).toNat = Config.SIZE s.version.toNat := by
  have hne : s.version ≠ 0#4 := hf.verv.1 hverv
  have hpos : s.version.toNat ≠ 0 := fun h => hne (BitVec.eq_of_toNat_eq h)
  have hle : s.version.toNat ≤ 10 := hr.version
  rw [BitVec.toNat_ofNat, Nat.mod_eq_of_lt]
  · omega
  · simp only [Config.SIZE]; omega

/-- The matrix a set MATV speaks of has a legal side. -/
theorem msize_legal {s : State} (hr : s.RegistersLegal) (hf : s.FlagsConsistent)
    (hmatv : s.status.matv = true) : 21 ≤ s.msize.toNat ∧ s.msize.toNat ≤ 57 := by
  rcases hr.msize with h | ⟨v, hv1, hv2, h⟩
  · exact absurd h (hf.matv.1 hmatv)
  · simp only [Config.VER_MIN, Config.VER_MAX, Config.SIZE] at hv1 hv2 h
    omega

theorem bch15_formatField_mem (e : BitVec 2) :
    bch15 (formatField e) ∈ [0#15, 0x5412#15, 0x77C4#15, 0x1689#15, 0x355F#15] := by
  revert e
  decide

/-- CWLEN after CWPUSH does not wrap (R97). -/
theorem toNat_cwlen_succ {s : State} (h : s.cwlen.toNat < 512) :
    (s.cwlen + 1#10).toNat = s.cwlen.toNat + 1 := by
  rw [BitVec.toNat_add, BitVec.toNat_ofNat]
  omega

/-- CWLEN after RSENC does not wrap (R137). -/
theorem toNat_cwlen_add_nec {s : State} (h : s.cwlen.toNat + s.nec.toNat ≤ 512) :
    (s.cwlen + s.nec.setWidth 10).toNat = s.cwlen.toNat + s.nec.toNat := by
  rw [BitVec.toNat_add, BitVec.toNat_setWidth]
  omega

/-- The buffer has room when CWPUSH is accepted (R97). -/
theorem cwlen_lt_of_cwpush {b : Byte} {s : State} (hacc : Accepted (.cwpush b) s)
    (hr : s.RegistersLegal) : s.cwlen.toNat < 512 := lt_of_le_of_ne hr.cwlen hacc.cap

theorem registersLegal_effectOf {i : Instr} {s : State} (hi : ∀ n, i ≠ .encode n)
    (hacc : Accepted i s) (h : s.RegistersLegal) (hf : s.FlagsConsistent) :
    (effectOf i s).RegistersLegal := by
  cases i with
  | encode n => exact absurd rfl (hi n)
  | sreset => exact registersLegal_restart s
  | setver v =>
    exact { h with version := (toNat_setver hacc).trans_le (accepted_setver hacc).2 }
  | cwclr => exact { h with cwlen := Nat.zero_le _, ndata := Nat.zero_le _ }
  | cwpush b =>
    have hlt := cwlen_lt_of_cwpush hacc h
    have hndata := h.ndata
    refine { h with cwlen := ?_, ndata := ?_ } <;>
      simp only [effectOf, toNat_cwlen_succ hlt, Config.CW_MAX]
    · omega
    · omega
  | rsenc =>
    obtain ⟨-, -, hcap⟩ := accepted_rsenc hacc
    rw [effectOf, rsencEffect_frame]
    refine { h with cwlen := ?_, ndata := ?_ } <;>
      simp only [toNat_cwlen_add_nec hcap, Config.CW_MAX]
    · omega
    · omega
  | mbuild =>
    obtain ⟨hpos, hle, hsize⟩ := size_legal h hf (eq_true_of_ne_false hacc.seq)
    exact { h with msize := .inr ⟨_, hpos, hle, hsize⟩, plcells := Nat.zero_le _ }
  | place =>
    obtain ⟨-, hle⟩ := msize_legal h hf (eq_true_of_ne_false hacc.seq)
    have hk : (traverse s).k ≤ 57 * 56 := (traverse_k_le s).trans (Nat.mul_le_mul hle (by omega))
    refine { h with plcells := ?_ }
    simp only [effectOf, placeEffect, BitVec.toNat_ofNat]
    omega
  | fmtwr => exact { h with fmt := bch15_formatField_mem s.eclbits }
  | _ => exact { h with }

/-- Settles O18: the flags are kept on their own, the registers with the flags' help. -/
theorem stepKeepsRegistersLegal : Obligations.StepKeepsRegistersLegal := fun _ _ hr hf h =>
  step_keeps (coreOnly_registersLegal.and coreOnly_flagsConsistent)
    (fun s => ⟨registersLegal_restart s, flagsConsistent_restart s⟩)
    (fun _ _ hi hacc hs =>
      ⟨registersLegal_effectOf hi hacc hs.1 hs.2, flagsConsistent_effectOf hi hacc hs.2⟩)
    ⟨hr, hf⟩ h

/-! ### Canonical form -/

theorem coreOnly_canonical : CoreOnly State.Canonical :=
  ⟨fun _ h => { h with }, fun _ _ h => { h with }, fun _ _ h => { h with }⟩

theorem canonical_restart (s : State) : s.restart.Canonical :=
  ⟨.nil, .nil, .nil, .nil, .nil, .nil, .nil⟩

theorem writeKept_wf (size : Nat) : WriteKept size Memory.wf :=
  fun _ r c b _ _ h => wf_writeGrid h r c b

theorem canonical_effectOf {i : Instr} {s : State} (hi : ∀ n, i ≠ .encode n)
    (hacc : Accepted i s) (h : s.Canonical) : (effectOf i s).Canonical := by
  cases i with
  | encode n => exact absurd rfl (hi n)
  | sreset => exact canonical_restart s
  | cwpush b => exact { h with cw := wf_writeCell h.cw _ _ }
  | gfinit =>
    obtain ⟨hexp, hlog⟩ := gfinitEffect_keeps h.exp h.log
      (fun _ _ _ hm => wf_writeCell hm _ _) fun _ _ _ hm => wf_writeCell hm _ _
    rw [effectOf, gfinitEffect_frame]
    generalize (gfinitEffect s).exp = exp, (gfinitEffect s).log = log at *
    exact { h with exp := hexp, log := hlog }
  | rsgen n => exact { h with gen := wf_writeList _ h.gen _, rem := wf_writeList _ h.rem _ }
  | rsclr => exact { h with rem := wf_writeList _ h.rem _ }
  | rsbyte b => exact { h with rem := wf_writeList _ h.rem _ }
  | rsenc =>
    have hrem : Memory.wf (divided s).rem :=
      divided_keeps (P := fun t => Memory.wf t.rem) (wf_writeList _ h.rem _)
        fun _ _ _ ht => wf_writeList _ ht _
    rw [effectOf, rsencEffect_frame, rsencEffect_rem, rsencEffect_cw]
    exact { h with cw := wf_writeList _ h.cw _, rem := hrem }
  | mbuild =>
    have hgrids := mbuildEffect_keeps (not_not.1 hacc.arg) (writeKept_wf _) h.mod h.rsv
    exact { h with mod := hgrids.1, rsv := hgrids.2 }
  | place => exact { h with mod := traverse_mod_keeps (writeKept_wf _) h.mod }
  | mask => exact { h with mod := maskEffect_mod_keeps (writeKept_wf _) h.mod }
  | fmtwr =>
    exact { h with
      mod := fmtwrEffect_mod_keeps (le_max_left 9 _) (le_max_right _ _) (writeKept_wf _) h.mod }
  | _ => exact { h with }

/-- Settles O19: a fresh memory is canonical, and every effect changes memories by writes. -/
theorem stepKeepsCanonical : Obligations.StepKeepsCanonical := fun _ _ hs h =>
  step_keeps coreOnly_canonical canonical_restart
    (fun _ _ hi hacc hs => canonical_effectOf hi hacc hs) hs h

/-! ### Bounds -/

theorem coreOnly_bounded : CoreOnly State.Bounded :=
  ⟨fun _ h => { h with }, fun _ _ h => { h with }, fun _ _ h => { h with }⟩

theorem bounded_restart (s : State) : s.restart.Bounded := by
  constructor <;> simp [State.reset]

/-- Every listed index of a memory is below `n`. -/
def Below {α : Type} (n : Nat) (m : Cells α) : Prop := ∀ p ∈ m, p.1 < n

theorem below_writeCell {α : Type} {n : Nat} {m : Cells α} (h : Below n m) {a : Nat} (ha : a < n)
    (v : α) : Below n (writeCell m a v) := by
  intro p hp
  rcases mem_writeCell hp with hp | hp
  · rw [hp]; exact ha
  · exact h p hp

theorem below_writeList {α : Type} {n : Nat} {m : Cells α} (h : Below n m) {a : Nat} (vs : List α)
    (ha : a + vs.length ≤ n) : Below n (writeList m a vs) := by
  intro p hp
  rcases mem_writeList hp with hp | hp
  · omega
  · exact h p hp

theorem writeKept_inGrid {size : Nat} (hsize : size ≤ 57) :
    WriteKept size fun g => ∀ p ∈ g, inGrid p.1 := by
  intro g r c b hr hc hg p hp
  rcases mem_writeCell hp with hp | hp
  · simp only [inGrid, hp, cellIndex, Config.SIZE_MAX]
    omega
  · exact hg p hp

theorem bounded_gfinitEffect {s : State} (h : s.Bounded) : (gfinitEffect s).Bounded := by
  obtain ⟨hexp, hlog⟩ := gfinitEffect_keeps (s := s) (Pexp := Below 255)
    (Plog := fun m => ∀ p ∈ m, 1 ≤ p.1 ∧ p.1 ≤ 255) h.exp h.log
    (fun _ _ hk hm => below_writeCell hm hk _) fun m k _ hm p hp => by
      rcases mem_writeCell hp with hp | hp
      · have hpos := gfPower_toNat_pos k
        have hlt := (gfPower k).isLt
        omega
      · exact hm p hp
  rw [gfinitEffect_frame]
  generalize (gfinitEffect s).exp = exp, (gfinitEffect s).log = log at *
  exact { h with exp := hexp, log := hlog }

theorem bounded_effectOf {i : Instr} {s : State} (hi : ∀ n, i ≠ .encode n)
    (hacc : Accepted i s) (hr : s.RegistersLegal) (hf : s.FlagsConsistent) (h : s.Bounded) :
    (effectOf i s).Bounded := by
  have hnec : s.nec.toNat ≤ 255 := by omega
  cases i with
  | encode n => exact absurd rfl (hi n)
  | sreset => exact bounded_restart s
  | cwpush b =>
    exact { h with cw := below_writeCell h.cw (cwlen_lt_of_cwpush hacc hr) _ }
  | gfinit => exact bounded_gfinitEffect h
  | rsgen n =>
    have hgen : Below 256 (writeList s.gen 0 (genArray s n.toNat)) :=
      below_writeList (fun p hp => Nat.lt_succ_of_le (h.gen p hp)) _ (by simp; omega)
    exact { h with
      gen := fun p hp => Nat.le_of_lt_succ (hgen p hp)
      rem := below_writeList h.rem _ (by simp; omega) }
  | rsclr => exact { h with rem := below_writeList h.rem _ (by simp; omega) }
  | rsbyte b => exact { h with rem := below_writeList h.rem _ (by simp; omega) }
  | rsenc =>
    obtain ⟨-, -, hcap⟩ := accepted_rsenc hacc
    have hrem : Below 255 (divided s).rem :=
      divided_keeps (P := fun t => Below 255 t.rem) (below_writeList h.rem _ (by simp; omega))
        fun t _ ht hbelow => below_writeList hbelow _ (by simp [ht]; omega)
    rw [effectOf, rsencEffect_frame, rsencEffect_rem, rsencEffect_cw]
    exact { h with cw := below_writeList h.cw _ (by simp [Config.CW_MAX]; omega), rem := hrem }
  | mbuild =>
    obtain ⟨-, hle, -⟩ := size_legal hr hf (eq_true_of_ne_false hacc.seq)
    have hgrids := mbuildEffect_keeps (not_not.1 hacc.arg)
      (writeKept_inGrid (by simp only [Config.SIZE]; omega)) h.mod h.rsv
    exact { h with mod := hgrids.1, rsv := hgrids.2 }
  | place =>
    obtain ⟨-, hle⟩ := msize_legal hr hf (eq_true_of_ne_false hacc.seq)
    exact { h with mod := traverse_mod_keeps (writeKept_inGrid hle) h.mod }
  | mask =>
    obtain ⟨-, hle⟩ := msize_legal hr hf (eq_true_of_ne_false hacc.seq)
    exact { h with mod := maskEffect_mod_keeps (writeKept_inGrid hle) h.mod }
  | fmtwr =>
    obtain ⟨hge, hle⟩ := msize_legal hr hf (accepted_fmtwr hacc).1
    exact { h with
      mod := fmtwrEffect_mod_keeps (by omega) (Nat.le_refl _) (writeKept_inGrid hle) h.mod }
  | _ => exact { h with }

/-- Settles O20: legal registers and consistent flags keep every index an effect writes in range. -/
theorem stepKeepsBounded : Obligations.StepKeepsBounded := fun _ _ hr hf hb h =>
  (step_keeps ((coreOnly_registersLegal.and coreOnly_flagsConsistent).and coreOnly_bounded)
    (fun s => ⟨⟨registersLegal_restart s, flagsConsistent_restart s⟩, bounded_restart s⟩)
    (fun _ _ hi hacc hs =>
      ⟨⟨registersLegal_effectOf hi hacc hs.1.1 hs.1.2, flagsConsistent_effectOf hi hacc hs.1.2⟩,
        bounded_effectOf hi hacc hs.1.1 hs.1.2 hs.2⟩)
    ⟨⟨hr, hf⟩, hb⟩ h).2

/-! ### Tables and generator -/

theorem coreOnly_tablesBuilt : CoreOnly State.TablesBuilt :=
  ⟨fun _ h => { h with }, fun _ _ h => { h with }, fun _ _ h => { h with }⟩

/-- A generator that is built stays so while degree, generator and flag are kept and the tables read
the same. -/
theorem generatorBuilt_congr {s t : State} (h : s.GeneratorBuilt)
    (hgenv : t.status.genv = s.status.genv)
    (hnec : t.nec = s.nec) (hgen : t.gen = s.gen)
    (htables : s.status.genv = true → SameTables s t) :
    t.GeneratorBuilt := by
  intro hv j hj
  rw [hgenv] at hv
  rw [hnec] at hj ⊢
  rw [hgen, h hv j hj, (htables hv).genCoeff (by omega)]

theorem generatorBuilt_of_frame {s t : State} (h : s.GeneratorBuilt)
    (hgenv : t.status.genv = s.status.genv) (hnec : t.nec = s.nec) (hgen : t.gen = s.gen)
    (hexp : t.exp = s.exp) (hlog : t.log = s.log) : t.GeneratorBuilt :=
  generatorBuilt_congr h hgenv hnec hgen fun _ => sameTables_of_eq hexp.symm hlog.symm

theorem coreOnly_generatorBuilt : CoreOnly State.GeneratorBuilt :=
  ⟨fun _ h => generatorBuilt_of_frame h rfl rfl rfl rfl rfl,
    fun _ _ h => generatorBuilt_of_frame h rfl rfl rfl rfl rfl,
    fun _ _ h => generatorBuilt_of_frame h rfl rfl rfl rfl rfl⟩

theorem tablesBuilt_gfinitEffect (s : State) : (gfinitEffect s).TablesBuilt :=
  ⟨fun _ i hi => by rw [readCell_gfinitEffect_exp, if_pos hi],
    fun _ _ hi => readCell_gfinitEffect_log s hi⟩

theorem generatorBuilt_rsgenEffect (n : Byte) (s : State) : (rsgenEffect n s).GeneratorBuilt := by
  intro _ j hj
  rw [readCell_rsgenEffect_gen n s hj]
  have htables : SameTables s (rsgenEffect n s) := sameTables_of_eq rfl rfl
  exact congrArg some (htables.genCoeff (n := n.toNat) (by omega) j)

theorem tablesAndGenerator_effectOf {i : Instr} {s : State} (hi : ∀ n, i ≠ .encode n)
    (hf : s.FlagsConsistent) (ht : s.TablesBuilt) (hg : s.GeneratorBuilt) :
    (effectOf i s).TablesBuilt ∧ (effectOf i s).GeneratorBuilt := by
  cases i with
  | encode n => exact absurd rfl (hi n)
  | sreset => exact ⟨⟨Bool.noConfusion, Bool.noConfusion⟩, Bool.noConfusion⟩
  | gfinit =>
    have htables := tablesBuilt_gfinitEffect s
    exact ⟨htables, generatorBuilt_congr hg rfl rfl rfl
      fun hv => sameTables_of_tabled ⟨hf.genv_tblv hv, ht⟩ ⟨rfl, htables⟩⟩
  | rsgen n => exact ⟨{ ht with }, generatorBuilt_rsgenEffect n s⟩
  | rsenc =>
    rw [effectOf, rsencEffect_frame]
    exact ⟨{ ht with }, generatorBuilt_of_frame hg rfl rfl rfl rfl rfl⟩
  | _ => exact ⟨{ ht with }, generatorBuilt_of_frame hg rfl rfl rfl rfl rfl⟩

/-- Settles O22: only GFINIT and RSGEN write tables or generator, and both write the right ones. -/
theorem stepKeepsTablesAndGenerator : Obligations.StepKeepsTablesAndGenerator :=
  fun _ _ hf ht hg h =>
    (step_keeps (coreOnly_flagsConsistent.and (coreOnly_tablesBuilt.and coreOnly_generatorBuilt))
      (fun s => ⟨flagsConsistent_restart s, ⟨Bool.noConfusion, Bool.noConfusion⟩, Bool.noConfusion⟩)
      (fun _ _ hi hacc hs =>
        ⟨flagsConsistent_effectOf hi hacc hs.1, tablesAndGenerator_effectOf hi hs.1 hs.2.1 hs.2.2⟩)
      ⟨hf, ht, hg⟩ h).2

end Sys2Proof.Machine
end

section
/-!
SUPPORT. Two runs that agree on what a command may read (spec/20_memory.md R64): every check, every
response and every effect is the same in both, as far as the next command may read.
-/

namespace Sys2Proof.Machine

open Sys2Proof.Claims

/-! ### The checks of a command in two states -/

theorem seqWhen_congr {i : Instr} {s s' : State} (h : s.status = s'.status) :
    seqWhen i s ↔ seqWhen i s' := by
  cases i <;> simp only [seqWhen, h]

theorem argWhen_congr {i : Instr} {s s' : State} (hcwlen : s.cwlen = s'.cwlen)
    (hnec : s.nec = s'.nec) (hmsize : s.msize = s'.msize)
    (hlegal : alignLegal s ↔ alignLegal s') : argWhen i s ↔ argWhen i s' := by
  cases i <;> simp only [argWhen, hcwlen, hnec, hmsize, hlegal]

theorem capWhen_congr {i : Instr} {s s' : State} (hcwlen : s.cwlen = s'.cwlen)
    (hnec : s.nec = s'.nec) : capWhen i s ↔ capWhen i s' := by
  cases i <;> simp only [capWhen, hcwlen, hnec]

/-- Two states that pass the same checks: the command fails in both alike, or both accept it. -/
theorem exec_alike {i : Instr} {s s' : State} (hseq : seqWhen i s ↔ seqWhen i s')
    (harg : argWhen i s ↔ argWhen i s') (hcap : capWhen i s ↔ capWhen i s') :
    (∃ e ≠ .ok, exec i s = raise e s ∧ exec i s' = raise e s') ∨
      (Accepted i s ∧ Accepted i s') := by
  by_cases h1 : seqWhen i s
  · exact .inl ⟨.seq, by decide, exec_of_seqWhen h1, exec_of_seqWhen (hseq.1 h1)⟩
  have h1' := mt hseq.2 h1
  by_cases h2 : argWhen i s
  · exact .inl ⟨.arg, by decide, exec_of_argWhen h1 h2, exec_of_argWhen h1' (harg.1 h2)⟩
  have h2' := mt harg.2 h2
  by_cases h3 : capWhen i s
  · exact .inl ⟨.cap, by decide, exec_of_capWhen h1 h2 h3, exec_of_capWhen h1' h2' (hcap.1 h3)⟩
  · exact .inr ⟨⟨h1, h2, h3⟩, ⟨h1', h2', mt hcap.2 h3⟩⟩

/-- RDREG reads one register: states that agree on it read alike (R22, R101). -/
theorem readReg_congr {s s' : State} {n : Nat}
    (h0 : n = 0 → s.status = s'.status := by exact fun _ => rfl)
    (h1 : n = 1 → s.version = s'.version := by exact fun _ => rfl)
    (h2 : n = 2 → s.eclbits = s'.eclbits := by exact fun _ => rfl)
    (h3 : n = 3 → s.alncnt = s'.alncnt := by exact fun _ => rfl)
    (h4 : n = 4 → s.cwlen = s'.cwlen := by exact fun _ => rfl)
    (h5 : n = 5 → s.ndata = s'.ndata := by exact fun _ => rfl)
    (h6 : n = 6 → s.nec = s'.nec := by exact fun _ => rfl)
    (h7 : n = 7 → s.msize = s'.msize := by exact fun _ => rfl)
    (h8 : n = 8 → s.fmt = s'.fmt := by exact fun _ => rfl)
    (h9 : n = 9 → s.plcells = s'.plcells := by exact fun _ => rfl)
    (h16 : 16 ≤ n → s.align[n - 16]? = s'.align[n - 16]? := by exact fun _ => rfl) :
    readReg s n = readReg s' n := by
  unfold readReg
  split
  · rw [h0 rfl]
  · rw [h1 rfl]
  · rw [h2 rfl]
  · rw [h3 rfl]
  · rw [h4 rfl]
  · rw [h5 rfl]
  · rw [h6 rfl]
  · rw [h7 rfl]
  · rw [h8 rfl]
  · rw [h9 rfl]
  · rfl
  · split
    · next hn => rw [h16 hn]
    · rfl

end Sys2Proof.Machine

/-! ### What agreeing states read -/

namespace Sys2Proof.Claims

open Sys2Proof.Machine

section
variable {s s' : State} (h : Agree s s')
include h

theorem Agree.alignList : alignList s = alignList s' := by
  unfold Machine.alignList
  rw [h.align, h.alncnt]

theorem Agree.alignLegal : alignLegal s ↔ alignLegal s' := by
  unfold Claims.alignLegal
  rw [h.version, h.alncnt, h.align]

theorem Agree.readReg (n : Nat) : readReg s n = readReg s' n :=
  readReg_congr (fun _ => h.status) (fun _ => h.version) (fun _ => h.eclbits) (fun _ => h.alncnt)
    (fun _ => h.cwlen) (fun _ => h.ndata) (fun _ => h.nec) (fun _ => h.msize) (fun _ => h.fmt)
    (fun _ => h.plcells) fun _ => by rw [h.align]

theorem Agree.readCw {i : Nat} (hi : i < s.cwlen.toNat) : readCw s i = readCw s' i :=
  congrArg (Option.getD · _) (h.cw i hi)

theorem Agree.readGen (hgenv : s.status.genv = true) {j : Nat} (hj : j ≤ s.nec.toNat) :
    readGen s j = readGen s' j := congrArg (Option.getD · _) (h.gen hgenv j hj)

theorem Agree.readRem (hgenv : s.status.genv = true) {j : Nat} (hj : j < s.nec.toNat) :
    readRem s j = readRem s' j := congrArg (Option.getD · _) (h.rem hgenv j hj)

theorem Agree.agreeOn_mod (hmatv : s.status.matv = true) : AgreeOn s.msize.toNat s.mod s'.mod :=
  h.mod hmatv

theorem Agree.agreeOn_rsv (hmatv : s.status.matv = true) : AgreeOn s.msize.toNat s.rsv s'.rsv :=
  h.rsv hmatv

theorem Agree.sameTables (htblv : s.status.tblv = true) : SameTables s s' := by
  refine ⟨fun i hi => congrArg (Option.getD · _) (h.exp htblv i hi), fun a ha => ?_⟩
  have hpos : a.toNat ≠ 0 := mt (byte_toNat_eq_zero_iff a).1 ha
  exact congrArg (Option.getD · _) (h.log htblv a.toNat (by omega) (by omega))

theorem Agree.placedBit (k : Nat) : placedBit s k = placedBit s' k := by
  unfold Machine.placedBit cwBits
  rw [← h.cwlen]
  split
  · unfold cwbit
    rw [h.readCw (by omega)]
  · rfl

theorem Agree.accepted {i : Instr} (hacc : Accepted i s) : Accepted i s' :=
  ⟨mt (seqWhen_congr h.status).2 hacc.seq,
    mt (argWhen_congr h.cwlen h.nec h.msize h.alignLegal).2 hacc.arg,
    mt (capWhen_congr h.cwlen h.nec).2 hacc.cap⟩

/-- An accepted command answers alike. -/
theorem Agree.dataOf {i : Instr} (hacc : Accepted i s) : dataOf i s = dataOf i s' := by
  obtain ⟨hseq, harg, -⟩ := hacc
  cases i with
  | rdcw idx => exact congrArg byteData (h.readCw (Nat.not_le.1 harg))
  | rdmod r c =>
    simp only [argWhen, not_or, Nat.not_le] at harg
    exact congrArg bitData ((h.agreeOn_mod (eq_true_of_ne_false hseq)).readMod harg.1 harg.2)
  | rdrsv r c =>
    simp only [argWhen, not_or, Nat.not_le] at harg
    exact congrArg bitData ((h.agreeOn_rsv (eq_true_of_ne_false hseq)).readRsv harg.1 harg.2)
  | rdreg n => exact congrArg (Option.getD · _) (h.readReg n.toNat)
  | gfmul a b => exact congrArg byteData ((h.sameTables (eq_true_of_ne_false hseq)).gfmul a b)
  | gfexp e =>
    have he : e.toNat ≠ 255 := harg
    exact congrArg byteData ((h.sameTables (eq_true_of_ne_false hseq)).exp _ (by omega))
  | gflog a =>
    have ha : a ≠ 0#8 := mt (byte_toNat_eq_zero_iff a).2 harg
    exact congrArg byteData ((h.sameTables (eq_true_of_ne_false hseq)).log a ha)
  | rdgen j =>
    exact congrArg byteData (h.readGen (eq_true_of_ne_false hseq) (Nat.not_lt.1 harg))
  | rdrem j =>
    exact congrArg byteData (h.readRem (eq_true_of_ne_false hseq) (Nat.not_le.1 harg))
  | _ => rfl

/-! ### The effects -/

theorem Agree.emit (w : Word) : Agree (s.emit w) (s'.emit w) :=
  { h with responses := congrArg (· ++ [w]) h.responses }

theorem Agree.latch (e : ErrCode) : Agree (s.latch e) (s'.latch e) :=
  { h with status := by simp only [State.latch_status, h.status] }

theorem Agree.dequeue : Agree s.dequeue s'.dequeue :=
  { h with inputs := congrArg List.tail h.inputs }

theorem Agree.restart : Agree s.restart s'.restart where
  status := rfl
  version := rfl
  eclbits := rfl
  alncnt := rfl
  cwlen := rfl
  ndata := rfl
  nec := rfl
  msize := rfl
  fmt := rfl
  plcells := rfl
  align := rfl
  inputs := h.inputs
  responses := h.responses
  exp := Bool.noConfusion
  log := Bool.noConfusion
  gen := Bool.noConfusion
  rem := Bool.noConfusion
  cw := fun _ hi => absurd hi (Nat.not_lt_zero _)
  mod := Bool.noConfusion
  rsv := Bool.noConfusion

theorem Agree.gfinitEffect : Agree (gfinitEffect s) (gfinitEffect s') := by
  have hexp : ∀ i < 255, readCell (Machine.gfinitEffect s).exp i =
      readCell (Machine.gfinitEffect s').exp i := fun i hi => by
    rw [readCell_gfinitEffect_exp, readCell_gfinitEffect_exp, if_pos hi, if_pos hi]
  have hlog : ∀ a, 1 ≤ a → a ≤ 255 → readCell (Machine.gfinitEffect s).log a =
      readCell (Machine.gfinitEffect s').log a := fun a ha1 ha2 => by
    have ha : (BitVec.ofNat 8 a).toNat = a := by
      rw [BitVec.toNat_ofNat, Nat.mod_eq_of_lt (by omega)]
    obtain ⟨i, hi, hpower⟩ := exists_gfPower_eq (a := BitVec.ofNat 8 a)
      (mt (byte_toNat_eq_zero_iff _).2 (by omega))
    rw [← ha, ← hpower, readCell_gfinitEffect_log s hi, readCell_gfinitEffect_log s' hi]
  rw [gfinitEffect_frame s, gfinitEffect_frame s']
  generalize (Machine.gfinitEffect s).exp = exp, (Machine.gfinitEffect s).log = log,
    (Machine.gfinitEffect s').exp = exp', (Machine.gfinitEffect s').log = log' at *
  exact { h with
    status := congrArg (fun st : Status => { st with tblv := true }) h.status
    exp := fun _ => hexp
    log := fun _ => hlog }

theorem Agree.rsgenEffect (n : Byte) (htblv : s.status.tblv = true) :
    Agree (rsgenEffect n s) (rsgenEffect n s') :=
  { h with
    nec := rfl
    status := congrArg (fun st : Status => { st with genv := true }) h.status
    gen := fun _ j hj => by
      have hj : j ≤ n.toNat := hj
      rw [readCell_rsgenEffect_gen n s hj, readCell_rsgenEffect_gen n s' hj,
        (h.sameTables htblv).genCoeff (by omega)]
    rem := fun _ j hj => by
      have hclear := fun u : State => readCell_clearRem n.toNat
        { u with gen := writeList u.gen 0 (genArray u n.toNat), nec := n } j
      exact (hclear s).trans ((if_pos hj).trans ((hclear s').trans (if_pos hj)).symm) }

theorem Agree.clearRem : Agree (clearRem s.nec.toNat s) (clearRem s'.nec.toNat s') := by
  rw [← h.nec]
  refine { h with rem := fun _ j hj => ?_ }
  have hj : j < s.nec.toNat := hj
  rw [readCell_clearRem, readCell_clearRem, if_pos hj, if_pos hj]

theorem Agree.rsStep (b : Byte) (hf : s.FlagsConsistent) (hgenv : s.status.genv = true) :
    Agree (rsStep b s) (rsStep b s') := by
  have hpos : 0 < s.nec.toNat :=
    Nat.pos_of_ne_zero (mt (byte_toNat_eq_zero_iff _).1 (hf.genv.1 hgenv))
  refine { h with rem := fun _ j hj => ?_ }
  have hj : j < s.nec.toNat := hj
  have hslot : rsSlot s s.nec.toNat (Machine.readRem s 0 ^^^ b) j =
      rsSlot s' s.nec.toNat (Machine.readRem s' 0 ^^^ b) j := by
    unfold rsSlot
    rw [h.readRem hgenv hpos, h.readGen hgenv hj, (h.sameTables (hf.genv_tblv hgenv)).gfmul]
    split
    · next hlt => rw [h.readRem hgenv hlt]
    · rfl
  rw [readCell_rsStep, readCell_rsStep, ← h.nec, if_pos hj, if_pos hj, hslot]

theorem Agree.divided (hf : s.FlagsConsistent) (hgenv : s.status.genv = true) :
    Agree (divided s) (divided s') := by
  have hfold : (Machine.divided s).FlagsConsistent ∧ (Machine.divided s).status.genv = true ∧
      Agree (Machine.divided s) (Machine.divided s') := by
    unfold Machine.divided
    rw [← h.cwlen]
    refine List.foldl_rel
      (r := fun t t' => t.FlagsConsistent ∧ t.status.genv = true ∧ Agree t t')
      ⟨{ hf with }, hgenv, h.clearRem⟩ ?_
    rintro k hk t t' ⟨hft, hgt, hat⟩
    rw [h.readCw (List.mem_range.1 hk)]
    exact ⟨{ hft with }, hgt, hat.rsStep _ hft hgt⟩
  exact hfold.2.2

theorem Agree.rsencEffect (hf : s.FlagsConsistent) (hgenv : s.status.genv = true)
    (hcap : s.cwlen.toNat + s.nec.toNat ≤ 512) : Agree (rsencEffect s) (rsencEffect s') := by
  have hdiv := h.divided hf hgenv
  have hgenv' : (Machine.divided s).status.genv = true := by rw [divided_frame]; exact hgenv
  have hnec' : (Machine.divided s).nec = s.nec := by rw [divided_frame]
  have hrem : ∀ j < s.nec.toNat, Machine.readRem (Machine.divided s) j =
      Machine.readRem (Machine.divided s') j := fun j hj => hdiv.readRem hgenv' (hnec'.symm ▸ hj)
  rw [rsencEffect_frame s, rsencEffect_frame s']
  refine { h with
    ndata := h.cwlen
    cwlen := by simp only [h.cwlen, h.nec]
    status := congrArg (fun st : Status => { st with ecv := true }) h.status
    rem := fun _ j hj => hdiv.rem hgenv' j (hnec'.symm ▸ hj)
    cw := fun i hi => ?_ }
  simp only [toNat_cwlen_add_nec hcap] at hi
  simp only [readCell_rsencEffect_cw, ← h.cwlen, ← h.nec]
  split
  · rw [hrem _ (by omega)]
  · exact h.cw i (by omega)

theorem Agree.mbuildEffect (hlegal : Claims.alignLegal s) :
    Agree (mbuildEffect s) (mbuildEffect s') := by
  have hgrids := mbuildEffect_related h.version h.alignList hlegal (writeStable_agreeOn _ _)
    (writeStable_agreeOn _ _) (fun _ _ hg _ hr _ hc => hg.readRsv hr hc)
    (allocate_agreeOn _ _ _)
  have hle : (BitVec.ofNat 6 (Config.SIZE s.version.toNat)).toNat ≤ Config.SIZE s.version.toNat :=
    (BitVec.toNat_ofNat _ _).trans_le (Nat.mod_le _ _)
  exact { h with
    mod := fun _ r hr c hc => hgrids.1 r (hr.trans_le hle) c (hc.trans_le hle)
    rsv := fun _ r hr c hc => hgrids.2 r (hr.trans_le hle) c (hc.trans_le hle)
    msize := congrArg (fun v : BitVec 4 => BitVec.ofNat 6 (Config.SIZE v.toNat)) h.version
    status := congrArg Status.afterMbuild h.status
    plcells := rfl }

theorem Agree.placeEffect (hmatv : s.status.matv = true) :
    Agree (placeEffect s) (placeEffect s') := by
  obtain ⟨hk, hmod⟩ := traverse_related h.msize (writeStable_agreeOn _ _) h.placedBit
    (fun _ hr _ hc => (h.agreeOn_rsv hmatv).readRsv hr hc) (h.agreeOn_mod hmatv)
  exact { h with
    mod := fun _ => hmod
    plcells := congrArg (BitVec.ofNat 12) hk
    status := by simp only [Machine.placeEffect, h.status, hk, cwBits, h.cwlen] }

theorem Agree.maskEffect (hmatv : s.status.matv = true) :
    Agree (maskEffect s) (maskEffect s') :=
  { h with
    mod := fun _ => maskEffect_related h.msize (writeStable_agreeOn _ _)
      (fun _ _ hg _ hr _ hc => hg.readMod hr hc)
      (fun _ hr _ hc => (h.agreeOn_rsv hmatv).readRsv hr hc) (h.agreeOn_mod hmatv)
    status := congrArg Status.afterMask h.status }

theorem Agree.fmtwrEffect (hmatv : s.status.matv = true) :
    Agree (fmtwrEffect s) (fmtwrEffect s') :=
  { h with
    fmt := congrArg (fun e => bch15 (formatField e)) h.eclbits
    mod := fun _ => fmtwrEffect_related h.msize h.eclbits (le_max_left 9 _) (le_max_right _ _)
      (writeStable_agreeOn _ _) (h.agreeOn_mod hmatv)
    status := congrArg Status.afterFmtwr h.status }

theorem Agree.cwpush (b : Byte) (hcwlen : s.cwlen.toNat < 512) :
    Agree (effectOf (.cwpush b) s) (effectOf (.cwpush b) s') := by
  refine { h with cwlen := congrArg (· + 1#10) h.cwlen, cw := fun i hi => ?_ }
  simp only [effectOf, toNat_cwlen_succ hcwlen] at hi
  simp only [effectOf, ← h.cwlen, readCell_writeCell]
  split
  · rfl
  · exact h.cw i (by omega)

theorem Agree.effectOf_stage {i : Instr} (hi : ∀ n, i ≠ .encode n) (hacc : Accepted i s)
    (hr : s.RegistersLegal) (hf : s.FlagsConsistent) : Agree (effectOf i s) (effectOf i s') := by
  cases i with
  | encode n => exact absurd rfl (hi n)
  | sreset => exact h.restart
  | setver v => exact { h with
      version := rfl, status := congrArg (fun st : Status => { st with verv := true }) h.status }
  | setecl e => exact { h with
      eclbits := rfl, status := congrArg (fun st : Status => { st with eclv := true }) h.status }
  | setalnc c => exact { h with alncnt := rfl }
  | setaln k p => exact { h with align := congrArg (·.setIfInBounds k.toNat p) h.align }
  | cwclr => exact { h with
      cwlen := rfl, ndata := rfl
      status := congrArg (fun st : Status => { st with ecv := false }) h.status
      cw := fun _ hi => absurd hi (Nat.not_lt_zero _) }
  | cwpush b => exact h.cwpush b (cwlen_lt_of_cwpush hacc hr)
  | clrerr => exact { h with
      status := congrArg (fun st : Status => { st with err := .ok }) h.status }
  | gfinit => exact h.gfinitEffect
  | rsgen n => exact h.rsgenEffect n (eq_true_of_ne_false hacc.seq)
  | rsclr => exact h.clearRem
  | rsbyte b => exact h.rsStep b hf (eq_true_of_ne_false hacc.seq)
  | rsenc =>
    obtain ⟨hgenv, -, hcap⟩ := accepted_rsenc hacc
    exact h.rsencEffect hf hgenv hcap
  | mbuild => exact h.mbuildEffect (not_not.1 hacc.arg)
  | place => exact h.placeEffect (eq_true_of_ne_false hacc.seq)
  | mask => exact h.maskEffect (eq_true_of_ne_false hacc.seq)
  | fmtwr => exact h.fmtwrEffect (accepted_fmtwr hacc).1
  | _ => exact h

end

end Sys2Proof.Claims

namespace Sys2Proof.Machine

open Sys2Proof.Claims

theorem effectOf_agree {i : Instr} {s s' : State} (hacc : Accepted i s) (hr : s.RegistersLegal)
    (hf : s.FlagsConsistent) (h : Agree s s') : Agree (effectOf i s) (effectOf i s') := by
  refine (effectOf_rel (R := fun s s' => s.RegistersLegal ∧ s.FlagsConsistent ∧ Agree s s') ?_ hacc
    (h.accepted hacc) ⟨hr, hf, h⟩).2.2
  rintro i s s' hi hacc - ⟨hr, hf, h⟩
  exact ⟨registersLegal_effectOf hi hacc hr hf, flagsConsistent_effectOf hi hacc hf,
    h.effectOf_stage hi hacc hr hf⟩

theorem exec_agree {i : Instr} {s s' t : State} (hr : s.RegistersLegal) (hf : s.FlagsConsistent)
    (h : Agree s s') (hexec : exec i s = .next t) : ∃ t', exec i s' = .next t' ∧ Agree t t' := by
  rcases exec_alike (seqWhen_congr h.status)
    (argWhen_congr h.cwlen h.nec h.msize h.alignLegal) (capWhen_congr h.cwlen h.nec) with
    ⟨e, -, hs, hs'⟩ | ⟨hacc, hacc'⟩
  · rw [hs] at hexec
    exact ⟨_, hs', raise_next hexec ▸ (h.latch e).emit _⟩
  · rw [exec_of_accepted hacc, h.dataOf hacc] at hexec
    exact ⟨_, exec_of_accepted hacc', respond_next hexec ▸ (effectOf_agree hacc hr hf h).emit _⟩

/-- Settles O57: the next event is the same in both states, and each outcome keeps the agreement. -/
theorem stepReadsOnlyReadable : Obligations.StepReadsOnlyReadable := by
  intro s s' t hr hf h hstep
  rcases step_cases s with ⟨hin, hs⟩ | ⟨ev, rest, hin, hev, hs⟩ | ⟨w, rest, e, hin, hd, hs⟩ |
    ⟨w, rest, i, hin, hd, hs⟩ <;> rw [hs] at hstep <;> rw [h.inputs] at hin
  · exact ⟨s', step_of_nil hin, Host.Outcome.next.inj hstep ▸ h⟩
  · exact ⟨_, step_of_reset hin hev, Host.Outcome.next.inj hstep ▸ h.dequeue.restart⟩
  · exact ⟨_, step_of_illegal hin hd, raise_next hstep ▸ (h.dequeue.latch _).emit _⟩
  · rw [step_of_command hin hd]
    exact exec_agree (coreOnly_registersLegal.dequeue s hr) (coreOnly_flagsConsistent.dequeue s hf)
      h.dequeue hstep

end Sys2Proof.Machine
end

section
/-!
SUPPORT. What each command writes: the registers of spec/10_state.md R22, the flags of R24 and R26,
and the elements of the arrays.
-/

namespace Sys2Proof.Machine

open Sys2Proof.Claims

/-- Settles O5: the word's event is taken off the host's list, and the command runs. -/
theorem stepRunsDecodedCommand : Obligations.StepRunsDecodedCommand := by
  intro s w rest i hin hd
  rw [step_of_command hin hd, State.dequeue, hin, List.tail_cons]

/-! ### Registers -/

/-- ENCODE's registers, stage by stage (R207). -/
theorem encodeEffect_frame (n : Byte) (s : State) : ∃ k : Nat, ∃ gen rem cw mod rsv,
    encodeEffect n s = { s with
      gen := gen, rem := rem, cw := cw, mod := mod, rsv := rsv
      nec := n, ndata := s.cwlen, cwlen := s.cwlen + n.setWidth 10
      msize := BitVec.ofNat 6 (Config.SIZE s.version.toNat)
      plcells := BitVec.ofNat 12 k, fmt := bch15 (formatField s.eclbits)
      status := { s.status with
        genv := true, ecv := true, matv := true, placed := true, masked := true, fmtd := true
        plshort := decide (k > 8 * (s.cwlen + n.setWidth 10).toNat)
        plover := decide (k < 8 * (s.cwlen + n.setWidth 10).toNat) } } := by
  unfold encodeEffect
  rw [rsencEffect_frame]
  exact ⟨_, _, _, _, _, _, rfl⟩

/-- Settles O13: a failing command writes no register, and each effect writes the registers of its
frame. -/
theorem registerWriters : Obligations.RegisterWriters := by
  intro i s t h
  rcases exec_inversion h with ⟨e, -, -, rfl⟩ | ⟨-, rfl⟩
  · simp
  · cases i with
    | rsenc => rw [effectOf, rsencEffect_frame]; simp
    | encode n =>
      obtain ⟨k, gen, rem, cw, mod, rsv, hframe⟩ := encodeEffect_frame n s
      simp [effectOf, hframe]
    | _ =>
      simp [effectOf, gfinitEffect, rsgenEffect, clearRem, rsStep, mbuildEffect, placeEffect,
        maskEffect, fmtwrEffect]

/-- Settles O15: a failing command writes no stage flag, and each effect writes the flags of its
frame. -/
theorem statusFlagWriters : Obligations.StatusFlagWriters := by
  intro i s t h
  rcases exec_inversion h with ⟨e, -, -, rfl⟩ | ⟨-, rfl⟩
  · simp
  · cases i with
    | rsenc => rw [effectOf, rsencEffect_frame]; simp
    | encode n =>
      obtain ⟨k, gen, rem, cw, mod, rsv, hframe⟩ := encodeEffect_frame n s
      simp [effectOf, hframe]
    | _ =>
      simp [effectOf, State.reset, Status.reset, gfinitEffect, rsgenEffect, clearRem, rsStep,
        mbuildEffect, placeEffect, maskEffect, fmtwrEffect, Status.afterMbuild, Status.afterPlace,
        Status.afterMask, Status.afterFmtwr]

/-! ### Elements a command does not write -/

/-- A failing command keeps every memory, so what holds of a memory after every effect holds after
the command. -/
theorem memory_of_exec {α : Type} {i : Instr} {s t : State} (h : exec i s = .next t)
    (field : State → α) (hlatch : ∀ e, field (s.latch e) = field s)
    (hemit : ∀ (u : State) w, field (u.emit w) = field u) :
    field t = field s ∨ field t = field (effectOf i s) := by
  rcases exec_inversion h with ⟨e, -, -, rfl⟩ | ⟨-, rfl⟩
  · exact .inl ((hemit _ _).trans (hlatch e))
  · exact .inr (hemit _ _)

/-- The elements of REM at and above NEC are those of before (R134 to R137). -/
theorem readCell_divided_other (s : State) {j : Nat} (hj : s.nec.toNat ≤ j) :
    readCell (divided s).rem j = readCell s.rem j := by
  refine divided_keeps (P := fun t => readCell t.rem j = readCell s.rem j) ?_ ?_
  · rw [readCell_clearRem, if_neg (by omega)]
  · intro t b hnec ht
    rw [readCell_rsStep, hnec, if_neg (by omega), ht]

/-- A cell outside the matrix is kept by writes to the matrix. -/
theorem writeKept_outside {size : Nat} (hsize : size ≤ 256) {r c : Nat} (hc : c < 256)
    (hout : size ≤ r ∨ size ≤ c) (v : Option Bool) :
    WriteKept size fun g => readGrid g r c = v := by
  intro g r' c' b hr' hc' h
  rw [readGrid_writeGrid g b (by omega) hc, if_neg (by omega), h]

/-- Settles O50: each effect writes only the elements of its range. -/
theorem otherElementsKept : Obligations.OtherElementsKept := by
  intro s t
  refine ⟨fun b h j hj => ?_, fun h => ⟨fun i hi => ?_, fun a ha => ?_⟩,
    fun n h => ⟨fun j hj => ?_, fun j hj => ?_⟩, fun i hi h j hj => ?_, fun h j hj => ?_,
    fun i hi h r c hc hout => ?_⟩
  · rcases memory_of_exec h State.cw (fun _ => rfl) (fun _ _ => rfl) with ht | ht <;> rw [ht]
    exact readCell_writeCell_other _ _ hj
  · rcases memory_of_exec h State.exp (fun _ => rfl) (fun _ _ => rfl) with ht | ht <;> rw [ht]
    rw [effectOf, readCell_gfinitEffect_exp, if_neg (by omega)]
  · rcases memory_of_exec h State.log (fun _ => rfl) (fun _ _ => rfl) with ht | ht <;> rw [ht]
    exact readCell_gfinitEffect_log_other s ha
  · rcases memory_of_exec h State.gen (fun _ => rfl) (fun _ _ => rfl) with ht | ht <;> rw [ht]
    exact (readCell_writeList _ _ _ _).trans (if_neg (by simp; omega))
  · rcases memory_of_exec h State.rem (fun _ => rfl) (fun _ _ => rfl) with ht | ht <;> rw [ht]
    exact (readCell_writeList _ _ _ _).trans (if_neg (by simp; omega))
  · rcases memory_of_exec h State.rem (fun _ => rfl) (fun _ _ => rfl) with ht | ht <;> rw [ht]
    rcases hi with rfl | ⟨b, rfl⟩ | rfl
    · rw [effectOf, readCell_clearRem, if_neg (by omega)]
    · rw [effectOf, readCell_rsStep, if_neg (by omega)]
    · exact readCell_divided_other s hj
  · rcases memory_of_exec h State.cw (fun _ => rfl) (fun _ _ => rfl) with ht | ht <;> rw [ht]
    rw [effectOf, readCell_rsencEffect_cw, if_neg (by omega)]
  · rcases memory_of_exec h State.mod (fun _ => rfl) (fun _ _ => rfl) with ht | ht <;> rw [ht]
    have hkept := writeKept_outside (by omega) hc hout (readGrid s.mod r c)
    rcases hi with rfl | rfl
    · exact traverse_mod_keeps hkept rfl
    · exact maskEffect_mod_keeps hkept rfl

end Sys2Proof.Machine
end

section
/-!
SUPPORT. A change of the state that a command does not read (spec/10_state.md R22, R25): the
command's effect either takes it along or overwrites it.
-/

namespace Sys2Proof.Machine

open Sys2Proof.Claims

/-! ### Effects and changes they do not read -/

/-- PLACE's state, from the grid and the count the traversal leaves (R170). -/
def withPlacement (s : State) (g : Grid) (k : Nat) : State :=
  { s with
    mod := g
    plcells := BitVec.ofNat 12 k
    status := s.status.afterPlace k (cwBits s) }

theorem placeEffect_eq (s : State) :
    placeEffect s = withPlacement s (traverse s).mod (traverse s).k := rfl

/-- MBUILD's state, from the grids the builder leaves (R150). -/
def withMatrix (s : State) (g : Grids) : State :=
  { s with
    mod := g.mod
    rsv := g.rsv
    msize := BitVec.ofNat 6 (Config.SIZE s.version.toNat)
    status := s.status.afterMbuild
    plcells := 0#12 }

theorem mbuildEffect_eq (s : State) : mbuildEffect s =
    withMatrix s (buildMatrix s.version.toNat (alignList s) { mod := s.mod, rsv := s.rsv }) := rfl

/-- FMTWR's state, from the word and the grid with the strips (R194). -/
def withFormat (s : State) (w : BitVec 15) (g : Grid) : State :=
  { s with fmt := w, mod := g, status := s.status.afterFmtwr }

/-- The grid FMTWR leaves (R194). -/
def withStrips (e : BitVec 2) (size : Nat) (g : Grid) : Grid :=
  writeStrip (bch15 (formatField e)) (stripV size)
    (writeStrip (bch15 (formatField e)) (stripH size) g)

theorem fmtwrEffect_eq (s : State) : fmtwrEffect s =
    withFormat s (bch15 (formatField s.eclbits)) (withStrips s.eclbits s.msize.toNat s.mod) := rfl

section
variable {u : State → State} {s : State}

theorem mbuildEffect_comm (hversion : (u s).version = s.version := by rfl)
    (hlist : alignList (u s) = alignList s := by rfl) (hmod : (u s).mod = s.mod := by rfl)
    (hrsv : (u s).rsv = s.rsv := by rfl)
    (hmatrix : ∀ g, withMatrix (u s) g = u (withMatrix s g) := by exact fun _ => rfl) :
    mbuildEffect (u s) = u (mbuildEffect s) := by
  rw [mbuildEffect_eq, mbuildEffect_eq, hversion, hlist, hmod, hrsv, hmatrix]

theorem fmtwrEffect_comm (hecl : (u s).eclbits = s.eclbits := by rfl)
    (hmsize : (u s).msize = s.msize := by rfl) (hmod : (u s).mod = s.mod := by rfl)
    (hformat : ∀ w g, withFormat (u s) w g = u (withFormat s w g) := by exact fun _ _ => rfl) :
    fmtwrEffect (u s) = u (fmtwrEffect s) := by
  rw [fmtwrEffect_eq, fmtwrEffect_eq, hecl, hmsize, hmod, hformat]

theorem rsencEffect_comm
    (hstep : ∀ b t, rsStep b (u t) = u (rsStep b t) := by exact fun _ _ => rfl)
    (hclear : clearRem (u s).nec.toNat (u s) = u (clearRem s.nec.toNat s) := by rfl)
    (hcwlen : (u s).cwlen = s.cwlen := by rfl) (hcw : (u s).cw = s.cw := by rfl)
    (happend : ∀ t, appendRemainder (u s) (u t) = u (appendRemainder s t) := by
      exact fun _ => rfl) :
    rsencEffect (u s) = u (rsencEffect s) := by
  rw [rsencEffect_eq, rsencEffect_eq, divided_comm hstep hclear hcwlen hcw, happend]

/-- The traversal reads MSIZE, RSV, MOD and the codewords alone. -/
theorem placeEffect_of_reads (hmsize : (u s).msize = s.msize := by rfl)
    (hbit : ∀ k, placedBit (u s) k = placedBit s k := by exact fun _ => rfl)
    (hrsv : (u s).rsv = s.rsv := by rfl) (hmod : (u s).mod = s.mod := by rfl) :
    placeEffect (u s) = withPlacement (u s) (traverse s).mod (traverse s).k := by
  obtain ⟨hk, hgrid⟩ := traverse_related (s := u s) (s' := s) hmsize (writeStable_eq _) hbit
    (fun _ _ _ _ => by rw [hrsv]) hmod
  rw [placeEffect_eq, hk, hgrid]

theorem placeEffect_comm (hmsize : (u s).msize = s.msize := by rfl)
    (hbit : ∀ k, placedBit (u s) k = placedBit s k := by exact fun _ => rfl)
    (hrsv : (u s).rsv = s.rsv := by rfl) (hmod : (u s).mod = s.mod := by rfl)
    (hplace : ∀ g k, withPlacement (u s) g k = u (withPlacement s g k) := by
      exact fun _ _ => rfl) :
    placeEffect (u s) = u (placeEffect s) := by
  rw [placeEffect_of_reads hmsize hbit hrsv hmod, hplace, placeEffect_eq]

end

/-! ### The error latch -/

section
variable (s : State) (e : ErrCode)

theorem seqWhen_withErr (i : Instr) : seqWhen i (withErr s e) ↔ seqWhen i s := by
  cases i <;> rfl

theorem argWhen_withErr (i : Instr) : argWhen i (withErr s e) ↔ argWhen i s :=
  argWhen_congr rfl rfl rfl Iff.rfl

theorem capWhen_withErr (i : Instr) : capWhen i (withErr s e) ↔ capWhen i s :=
  capWhen_congr rfl rfl

theorem dataOf_withErr {i : Instr} (hi : i ≠ .rdreg 0#8) :
    dataOf i (withErr s e) = dataOf i s := by
  cases i with
  | rdreg n =>
    have hn : n.toNat ≠ 0 := fun h => hi (congrArg _ ((byte_toNat_eq_zero_iff n).1 h))
    exact congrArg (Option.getD · _) (readReg_congr (h0 := fun h => absurd h hn))
  | _ => rfl

theorem gfinitEffect_withErr : gfinitEffect (withErr s e) = withErr (gfinitEffect s) e := by
  simp only [gfinitEffect, withErr]

theorem rsgenEffect_withErr (n : Byte) :
    rsgenEffect n (withErr s e) = withErr (rsgenEffect n s) e := rfl

theorem rsencEffect_withErr : rsencEffect (withErr s e) = withErr (rsencEffect s) e :=
  rsencEffect_comm (u := (withErr · e))

theorem mbuildEffect_withErr : mbuildEffect (withErr s e) = withErr (mbuildEffect s) e :=
  mbuildEffect_comm (u := (withErr · e))

theorem placeEffect_withErr : placeEffect (withErr s e) = withErr (placeEffect s) e :=
  placeEffect_comm (u := (withErr · e))

theorem maskEffect_withErr : maskEffect (withErr s e) = withErr (maskEffect s) e := rfl

theorem fmtwrEffect_withErr : fmtwrEffect (withErr s e) = withErr (fmtwrEffect s) e :=
  fmtwrEffect_comm (u := (withErr · e))

theorem encodeEffect_withErr (n : Byte) :
    encodeEffect n (withErr s e) = withErr (encodeEffect n s) e := by
  simp only [encodeEffect, rsgenEffect_withErr, rsencEffect_withErr, mbuildEffect_withErr,
    placeEffect_withErr, maskEffect_withErr, fmtwrEffect_withErr]

theorem withErr_withErr (e' : ErrCode) : withErr (withErr s e) e' = withErr s e' := rfl

/-- Whatever the latch holds, an effect is the same but for the latch. -/
theorem effectOf_withErr (i : Instr) :
    withErr (effectOf i (withErr s e)) .ok = withErr (effectOf i s) .ok := by
  cases i with
  | gfinit => rw [effectOf, gfinitEffect_withErr, withErr_withErr, effectOf]
  | mbuild => rw [effectOf, mbuildEffect_withErr, withErr_withErr, effectOf]
  | rsenc => rw [effectOf, rsencEffect_withErr, withErr_withErr, effectOf]
  | place => rw [effectOf, placeEffect_withErr, withErr_withErr, effectOf]
  | fmtwr => rw [effectOf, fmtwrEffect_withErr, withErr_withErr, effectOf]
  | encode n => rw [effectOf, encodeEffect_withErr, withErr_withErr, effectOf]
  | _ => rfl

end

/-- A command that succeeds keeps the latch, CLRERR and SRESET apart. -/
theorem effectOf_err {i : Instr} (s : State) (h1 : i ≠ .clrerr) (h2 : i ≠ .sreset) :
    (effectOf i s).status.err = s.status.err := by
  cases i with
  | clrerr => exact absurd rfl h1
  | sreset => exact absurd rfl h2
  | rsenc => rw [effectOf, rsencEffect_frame]
  | encode n =>
    obtain ⟨k, gen, rem, cw, mod, rsv, hframe⟩ := encodeEffect_frame n s
    rw [effectOf, hframe]
  | _ => rfl

/-- What a command appends to the responses does not depend on what is there. -/
theorem effectOf_responses (i : Instr) (s : State) : (effectOf i s).responses = s.responses := by
  cases i with
  | rsenc => rw [effectOf, rsencEffect_frame]
  | encode n =>
    obtain ⟨k, gen, rem, cw, mod, rsv, hframe⟩ := encodeEffect_frame n s
    rw [effectOf, hframe]
  | _ => rfl

theorem responseWord_ok (d : Half) : responseWord .ok d = 0#16 ++ d := by
  apply BitVec.eq_of_toNat_eq
  simp [responseWord, ErrCode.code]

theorem responseWord_eq_failWord (e : ErrCode) : responseWord e 0#16 = failWord e := by
  cases e <;> rfl

/-- The two outcomes of a command, in the words of the claims (R212). -/
theorem exec_outcome {i : Instr} {s t : State} (h : exec i s = .next t) :
    (∃ e ≠ .ok, i ≠ .clrerr ∧ i ≠ .sreset ∧ t = failed s e) ∨
      ∃ d, t = { effectOf i s with responses := answered s d } := by
  rcases exec_inversion h with ⟨e, he, hacc, rfl⟩ | ⟨-, rfl⟩
  · refine .inl ⟨e, he, ?_, ?_, ?_⟩
    · rintro rfl; exact hacc ⟨id, id, id⟩
    · rintro rfl; exact hacc ⟨id, id, id⟩
    · rw [responseWord_eq_failWord]; rfl
  · refine .inr ⟨dataOf i s, ?_⟩
    rw [State.emit, effectOf_responses, responseWord_ok]
    rfl

/-- The latch after a command (R25). -/
theorem exec_err {i : Instr} {s t : State} (h : exec i s = .next t) :
    (i = .clrerr ∨ i = .sreset → t.status.err = .ok) ∧
    (s.status.err ≠ .ok → i ≠ .clrerr → i ≠ .sreset → t.status.err = s.status.err) ∧
    (s.status.err = .ok →
      (∃ d : Half, t.responses = answered s d ∧ t.status.err = .ok) ∨
        (t.status.err ≠ .ok ∧ t.responses = s.responses ++ [failWord t.status.err])) := by
  rcases exec_outcome h with ⟨e, he, h1, h2, rfl⟩ | ⟨d, rfl⟩
  · refine ⟨fun hi => ?_, fun hs _ _ => if_neg hs, fun hs => .inr ?_⟩
    · exact absurd hi (not_or.2 ⟨h1, h2⟩)
    · simp [failed, hs, he]
  · refine ⟨?_, fun _ => effectOf_err s, fun hs => .inl ⟨d, rfl, ?_⟩⟩
    · rintro (rfl | rfl) <;> rfl
    · by_cases hi : i = .clrerr ∨ i = .sreset
      · rcases hi with rfl | rfl <;> rfl
      · rw [not_or] at hi
        exact (effectOf_err s hi.1 hi.2).trans hs

/-- Any other value of the latch changes nothing of a command but the latch (R25). -/
theorem exec_withErr {i : Instr} {s t : State} (hi : i ≠ .rdreg 0#8) (h : exec i s = .next t)
    (e : ErrCode) : ∃ u, exec i (withErr s e) = .next u ∧ withErr u .ok = withErr t .ok := by
  rcases exec_alike (seqWhen_withErr s e i) (argWhen_withErr s e i) (capWhen_withErr s e i) with
    ⟨e', -, hs', hs⟩ | ⟨hacc', hacc⟩
  · rw [hs] at h
    exact ⟨_, hs', by rw [raise_next h]; rfl⟩
  · rw [exec_of_accepted hacc] at h
    refine ⟨_, exec_of_accepted hacc', ?_⟩
    rw [respond_next h, dataOf_withErr s e hi]
    exact congrArg (State.emit · _) (effectOf_withErr s e i)

/-- Settles O16: reset clears the latch, and a command treats it as `exec_err` and `exec_withErr`
say. -/
theorem firstErrorWins : Obligations.FirstErrorWins := by
  refine ⟨rfl, fun s t ev rest hin hev h => ?_, fun i s t h => ?_⟩
  · rw [step_of_reset hin hev] at h
    exact Host.Outcome.next.inj h ▸ rfl
  · obtain ⟨h1, h2, h3⟩ := exec_err h
    exact ⟨h1, h2, h3, fun hi e => exec_withErr hi h e⟩

end Sys2Proof.Machine
end

section
/-!
SUPPORT. Which registers a command reads (spec/10_state.md R22): a command that does not read a
register passes the same checks, answers alike, and either overwrites the register or leaves it.
-/

namespace Sys2Proof.Machine

open Sys2Proof.Claims

/-- `u` changes the register `reg` alone, on the core's side of the ports and beside the latch. -/
structure ChangesRegister {α : Type} (u : State → State) (reg : State → α) : Prop where
  emit : ∀ s w, (u s).emit w = u (s.emit w) := by exact fun _ _ => rfl
  latch : ∀ s e, (u s).latch e = u (s.latch e) := by exact fun _ _ => rfl
  reg_emit : ∀ (s : State) w, reg (s.emit w) = reg s := by exact fun _ _ => rfl
  reg_latch : ∀ (s : State) e, reg (s.latch e) = reg s := by exact fun _ _ => rfl

/-- Command `i` at `s` does not look at the register that `u` changes. -/
structure Unread {α : Type} (u : State → State) (reg : State → α) (i : Instr) (s : State) :
    Prop where
  seq : seqWhen i (u s) ↔ seqWhen i s := by exact Iff.rfl
  arg : argWhen i (u s) ↔ argWhen i s := by exact Iff.rfl
  cap : capWhen i (u s) ↔ capWhen i s := by exact Iff.rfl
  data : dataOf i (u s) = dataOf i s := by rfl
  effect : effectOf i (u s) = effectOf i s ∨
    reg (effectOf i s) = reg s ∧ effectOf i (u s) = u (effectOf i s)

theorem Unread.blindTo {α : Type} {u : State → State} {reg : State → α} {i : Instr} {s t : State}
    (h : Unread u reg i s) (hu : ChangesRegister u reg) (hexec : exec i s = .next t) :
    blindTo i (u s) t (u t) (reg t = reg s) := by
  rcases exec_alike h.seq h.arg h.cap with ⟨e, -, hs', hs⟩ | ⟨hacc', hacc⟩
  · rw [hs] at hexec
    rw [raise_next hexec]
    refine .inr ⟨by rw [hu.reg_emit, hu.reg_latch], hs'.trans ?_⟩
    rw [← hu.emit, ← hu.latch]
    rfl
  · rw [exec_of_accepted hacc] at hexec
    rw [respond_next hexec, Claims.blindTo, exec_of_accepted hacc', h.data]
    rcases h.effect with heff | ⟨hreg, heff⟩
    · exact .inl (congrArg (respond _) heff)
    · refine .inr ⟨by rw [hu.reg_emit, hreg], ?_⟩
      rw [heff, ← hu.emit]
      rfl

/-- RDREG of another register. -/
theorem Unread.rdreg {α : Type} {u : State → State} {reg : State → α} {n : Byte} {s : State}
    (h : readReg (u s) n.toNat = readReg s n.toNat) : Unread u reg (.rdreg n) s :=
  ⟨Iff.rfl, Iff.rfl, Iff.rfl, congrArg (Option.getD · _) h, .inr ⟨rfl, rfl⟩⟩

theorem rdreg_toNat_ne {n : Byte} {k : Nat} (h : Instr.rdreg n ≠ .rdreg (BitVec.ofNat 8 k)) :
    n.toNat ≠ k := by
  rintro rfl
  simp at h

/-! ### The effects that take some registers along and overwrite others -/

theorem rsencEffect_withMsize (s : State) (v : BitVec 6) :
    rsencEffect { s with msize := v } = { rsencEffect s with msize := v } :=
  rsencEffect_comm (u := fun s => { s with msize := v })

theorem rsencEffect_withFmt (s : State) (v : BitVec 15) :
    rsencEffect { s with fmt := v } = { rsencEffect s with fmt := v } :=
  rsencEffect_comm (u := fun s => { s with fmt := v })

theorem rsencEffect_withPlcells (s : State) (v : BitVec 12) :
    rsencEffect { s with plcells := v } = { rsencEffect s with plcells := v } :=
  rsencEffect_comm (u := fun s => { s with plcells := v })

theorem placeEffect_withFmt (s : State) (v : BitVec 15) :
    placeEffect { s with fmt := v } = { placeEffect s with fmt := v } :=
  placeEffect_comm (u := fun s => { s with fmt := v })

theorem mbuildEffect_withFmt (s : State) (v : BitVec 15) :
    mbuildEffect { s with fmt := v } = { mbuildEffect s with fmt := v } :=
  mbuildEffect_comm (u := fun s => { s with fmt := v })

theorem rsencEffect_withNdata (s : State) (v : BitVec 10) :
    rsencEffect { s with ndata := v } = rsencEffect s := by
  rw [rsencEffect_eq, divided_comm (u := fun s => { s with ndata := v })]
  rfl

theorem placeEffect_withPlcells (s : State) (v : BitVec 12) :
    placeEffect { s with plcells := v } = placeEffect s := by
  rw [placeEffect_of_reads (u := fun s => { s with plcells := v })]
  rfl

theorem encodeEffect_withNdata (n : Byte) (s : State) (v : BitVec 10) :
    encodeEffect n { s with ndata := v } = encodeEffect n s := by
  unfold encodeEffect
  rw [show rsgenEffect n { s with ndata := v } = { rsgenEffect n s with ndata := v } from rfl,
    rsencEffect_withNdata]

theorem encodeEffect_withNec (n : Byte) (s : State) (v : BitVec 8) :
    encodeEffect n { s with nec := v } = encodeEffect n s := by
  unfold encodeEffect
  rw [show rsgenEffect n { s with nec := v } = rsgenEffect n s from rfl]

theorem fmtwrEffect_withFmt (s : State) (v : BitVec 15) :
    fmtwrEffect { s with fmt := v } = fmtwrEffect s := by
  rw [fmtwrEffect_eq, fmtwrEffect_eq]
  rfl

theorem encodeEffect_withMsize (n : Byte) (s : State) (v : BitVec 6) :
    encodeEffect n { s with msize := v } = encodeEffect n s := by
  unfold encodeEffect
  rw [show rsgenEffect n { s with msize := v } = { rsgenEffect n s with msize := v } from rfl,
    rsencEffect_withMsize]
  rfl

theorem encodeEffect_withPlcells (n : Byte) (s : State) (v : BitVec 12) :
    encodeEffect n { s with plcells := v } = encodeEffect n s := by
  unfold encodeEffect
  rw [show rsgenEffect n { s with plcells := v } = { rsgenEffect n s with plcells := v } from rfl,
    rsencEffect_withPlcells]
  rfl

theorem encodeEffect_withFmt (n : Byte) (s : State) (v : BitVec 15) :
    encodeEffect n { s with fmt := v } = encodeEffect n s := by
  unfold encodeEffect
  rw [show rsgenEffect n { s with fmt := v } = { rsgenEffect n s with fmt := v } from rfl,
    rsencEffect_withFmt, mbuildEffect_withFmt, placeEffect_withFmt,
    show ∀ t : State, maskEffect { t with fmt := v } = { maskEffect t with fmt := v } from
      fun _ => rfl, fmtwrEffect_withFmt]

/-! ### Each register and the commands that read it (R22) -/

theorem version_unread {i : Instr} (hmbuild : i ≠ .mbuild) (hencode : ∀ a, i ≠ .encode a)
    (hrdreg : i ≠ .rdreg 1#8) (s : State) (v : BitVec 4) :
    Unread (fun s => { s with version := v }) State.version i s := by
  cases i with
  | mbuild => exact absurd rfl hmbuild
  | encode a => exact absurd rfl (hencode a)
  | rdreg n => exact .rdreg (readReg_congr (h1 := fun h => absurd h (rdreg_toNat_ne hrdreg)))
  | setver _ | sreset => exact { effect := .inl rfl }
  | gfinit => exact { effect := .inr ⟨rfl, by simp only [effectOf, gfinitEffect]⟩ }
  | rsenc =>
    exact { effect := .inr ⟨by rw [effectOf, rsencEffect_frame],
      rsencEffect_comm (u := fun s => { s with version := v })⟩ }
  | place =>
    exact { effect := .inr ⟨rfl,
      placeEffect_comm (u := fun s => { s with version := v })⟩ }
  | fmtwr =>
    exact { effect := .inr ⟨rfl,
      fmtwrEffect_comm (u := fun s => { s with version := v })⟩ }
  | _ => exact { effect := .inr ⟨rfl, rfl⟩ }

theorem eclbits_unread {i : Instr} (hfmtwr : i ≠ .fmtwr) (hencode : ∀ a, i ≠ .encode a)
    (hrdreg : i ≠ .rdreg 2#8) (s : State) (v : BitVec 2) :
    Unread (fun s => { s with eclbits := v }) State.eclbits i s := by
  cases i with
  | fmtwr => exact absurd rfl hfmtwr
  | encode a => exact absurd rfl (hencode a)
  | rdreg n => exact .rdreg (readReg_congr (h2 := fun h => absurd h (rdreg_toNat_ne hrdreg)))
  | setecl _ | sreset => exact { effect := .inl rfl }
  | gfinit => exact { effect := .inr ⟨rfl, by simp only [effectOf, gfinitEffect]⟩ }
  | rsenc =>
    exact { effect := .inr ⟨by rw [effectOf, rsencEffect_frame],
      rsencEffect_comm (u := fun s => { s with eclbits := v })⟩ }
  | mbuild =>
    exact { effect := .inr ⟨rfl,
      mbuildEffect_comm (u := fun s => { s with eclbits := v })⟩ }
  | place =>
    exact { effect := .inr ⟨rfl,
      placeEffect_comm (u := fun s => { s with eclbits := v })⟩ }
  | _ => exact { effect := .inr ⟨rfl, rfl⟩ }

theorem alncnt_unread {i : Instr} (hmbuild : i ≠ .mbuild) (hencode : ∀ a, i ≠ .encode a)
    (hrdreg : i ≠ .rdreg 3#8) (s : State) (v : BitVec 3) :
    Unread (fun s => { s with alncnt := v }) State.alncnt i s := by
  cases i with
  | mbuild => exact absurd rfl hmbuild
  | encode a => exact absurd rfl (hencode a)
  | rdreg n => exact .rdreg (readReg_congr (h3 := fun h => absurd h (rdreg_toNat_ne hrdreg)))
  | setalnc _ | sreset => exact { effect := .inl rfl }
  | gfinit => exact { effect := .inr ⟨rfl, by simp only [effectOf, gfinitEffect]⟩ }
  | rsenc =>
    exact { effect := .inr ⟨by rw [effectOf, rsencEffect_frame],
      rsencEffect_comm (u := fun s => { s with alncnt := v })⟩ }
  | place =>
    exact { effect := .inr ⟨rfl,
      placeEffect_comm (u := fun s => { s with alncnt := v })⟩ }
  | fmtwr =>
    exact { effect := .inr ⟨rfl,
      fmtwrEffect_comm (u := fun s => { s with alncnt := v })⟩ }
  | _ => exact { effect := .inr ⟨rfl, rfl⟩ }

theorem cwlen_unread {i : Instr} (hrdcw : ∀ a, i ≠ .rdcw a) (hcwpush : ∀ a, i ≠ .cwpush a)
    (hrsenc : i ≠ .rsenc) (hplace : i ≠ .place) (hencode : ∀ a, i ≠ .encode a)
    (hrdreg : i ≠ .rdreg 4#8) (s : State) (v : BitVec 10) :
    Unread (fun s => { s with cwlen := v }) State.cwlen i s := by
  cases i with
  | rdcw a => exact absurd rfl (hrdcw a)
  | cwpush a => exact absurd rfl (hcwpush a)
  | rsenc => exact absurd rfl hrsenc
  | place => exact absurd rfl hplace
  | encode a => exact absurd rfl (hencode a)
  | rdreg n => exact .rdreg (readReg_congr (h4 := fun h => absurd h (rdreg_toNat_ne hrdreg)))
  | cwclr | sreset => exact { effect := .inl rfl }
  | gfinit => exact { effect := .inr ⟨rfl, by simp only [effectOf, gfinitEffect]⟩ }
  | mbuild =>
    exact { effect := .inr ⟨rfl,
      mbuildEffect_comm (u := fun s => { s with cwlen := v })⟩ }
  | fmtwr =>
    exact { effect := .inr ⟨rfl,
      fmtwrEffect_comm (u := fun s => { s with cwlen := v })⟩ }
  | _ => exact { effect := .inr ⟨rfl, rfl⟩ }

theorem ndata_unread {i : Instr} (hrdreg : i ≠ .rdreg 5#8) (s : State) (v : BitVec 10) :
    Unread (fun s => { s with ndata := v }) State.ndata i s := by
  cases i with
  | rdreg n => exact .rdreg (readReg_congr (h5 := fun h => absurd h (rdreg_toNat_ne hrdreg)))
  | cwclr | sreset => exact { effect := .inl rfl }
  | rsenc => exact { effect := .inl (rsencEffect_withNdata s v) }
  | encode n => exact { effect := .inl (encodeEffect_withNdata n s v) }
  | gfinit => exact { effect := .inr ⟨rfl, by simp only [effectOf, gfinitEffect]⟩ }
  | mbuild =>
    exact { effect := .inr ⟨rfl,
      mbuildEffect_comm (u := fun s => { s with ndata := v })⟩ }
  | place =>
    exact { effect := .inr ⟨rfl,
      placeEffect_comm (u := fun s => { s with ndata := v })⟩ }
  | fmtwr =>
    exact { effect := .inr ⟨rfl,
      fmtwrEffect_comm (u := fun s => { s with ndata := v })⟩ }
  | _ => exact { effect := .inr ⟨rfl, rfl⟩ }

theorem nec_unread {i : Instr} (hrsclr : i ≠ .rsclr) (hrsbyte : ∀ a, i ≠ .rsbyte a)
    (hrsenc : i ≠ .rsenc) (hrdgen : ∀ a, i ≠ .rdgen a) (hrdrem : ∀ a, i ≠ .rdrem a)
    (hrdreg : i ≠ .rdreg 6#8) (s : State) (v : BitVec 8) :
    Unread (fun s => { s with nec := v }) State.nec i s := by
  cases i with
  | rsclr => exact absurd rfl hrsclr
  | rsbyte a => exact absurd rfl (hrsbyte a)
  | rsenc => exact absurd rfl hrsenc
  | rdgen a => exact absurd rfl (hrdgen a)
  | rdrem a => exact absurd rfl (hrdrem a)
  | rdreg n => exact .rdreg (readReg_congr (h6 := fun h => absurd h (rdreg_toNat_ne hrdreg)))
  | rsgen _ | sreset => exact { effect := .inl rfl }
  | encode n => exact { effect := .inl (encodeEffect_withNec n s v) }
  | gfinit => exact { effect := .inr ⟨rfl, by simp only [effectOf, gfinitEffect]⟩ }
  | mbuild =>
    exact { effect := .inr ⟨rfl,
      mbuildEffect_comm (u := fun s => { s with nec := v })⟩ }
  | place =>
    exact { effect := .inr ⟨rfl,
      placeEffect_comm (u := fun s => { s with nec := v })⟩ }
  | fmtwr =>
    exact { effect := .inr ⟨rfl,
      fmtwrEffect_comm (u := fun s => { s with nec := v })⟩ }
  | _ => exact { effect := .inr ⟨rfl, rfl⟩ }

theorem msize_unread {i : Instr} (hplace : i ≠ .place) (hmask : i ≠ .mask)
    (hfmtwr : i ≠ .fmtwr) (hrdmod : ∀ a b, i ≠ .rdmod a b) (hrdrsv : ∀ a b, i ≠ .rdrsv a b)
    (hrdreg : i ≠ .rdreg 7#8) (s : State) (v : BitVec 6) :
    Unread (fun s => { s with msize := v }) State.msize i s := by
  cases i with
  | place => exact absurd rfl hplace
  | mask => exact absurd rfl hmask
  | fmtwr => exact absurd rfl hfmtwr
  | rdmod a b => exact absurd rfl (hrdmod a b)
  | rdrsv a b => exact absurd rfl (hrdrsv a b)
  | rdreg n => exact .rdreg (readReg_congr (h7 := fun h => absurd h (rdreg_toNat_ne hrdreg)))
  | sreset | mbuild => exact { effect := .inl rfl }
  | encode n => exact { effect := .inl (encodeEffect_withMsize n s v) }
  | gfinit => exact { effect := .inr ⟨rfl, by simp only [effectOf, gfinitEffect]⟩ }
  | rsenc =>
    exact { effect := .inr ⟨by rw [effectOf, rsencEffect_frame], rsencEffect_withMsize s v⟩ }
  | _ => exact { effect := .inr ⟨rfl, rfl⟩ }

theorem fmt_unread {i : Instr} (hrdreg : i ≠ .rdreg 8#8) (s : State) (v : BitVec 15) :
    Unread (fun s => { s with fmt := v }) State.fmt i s := by
  cases i with
  | rdreg n => exact .rdreg (readReg_congr (h8 := fun h => absurd h (rdreg_toNat_ne hrdreg)))
  | sreset => exact { effect := .inl rfl }
  | encode n => exact { effect := .inl (encodeEffect_withFmt n s v) }
  | fmtwr => exact { effect := .inl (fmtwrEffect_withFmt s v) }
  | gfinit => exact { effect := .inr ⟨rfl, by simp only [effectOf, gfinitEffect]⟩ }
  | rsenc =>
    exact { effect := .inr ⟨by rw [effectOf, rsencEffect_frame], rsencEffect_withFmt s v⟩ }
  | mbuild => exact { effect := .inr ⟨rfl, mbuildEffect_withFmt s v⟩ }
  | place => exact { effect := .inr ⟨rfl, placeEffect_withFmt s v⟩ }
  | _ => exact { effect := .inr ⟨rfl, rfl⟩ }

theorem plcells_unread {i : Instr} (hrdreg : i ≠ .rdreg 9#8) (s : State) (v : BitVec 12) :
    Unread (fun s => { s with plcells := v }) State.plcells i s := by
  cases i with
  | rdreg n => exact .rdreg (readReg_congr (h9 := fun h => absurd h (rdreg_toNat_ne hrdreg)))
  | sreset | mbuild => exact { effect := .inl rfl }
  | place => exact { effect := .inl (placeEffect_withPlcells s v) }
  | encode n => exact { effect := .inl (encodeEffect_withPlcells n s v) }
  | gfinit => exact { effect := .inr ⟨rfl, by simp only [effectOf, gfinitEffect]⟩ }
  | rsenc =>
    exact { effect := .inr ⟨by rw [effectOf, rsencEffect_frame], rsencEffect_withPlcells s v⟩ }
  | fmtwr =>
    exact { effect := .inr ⟨rfl,
      fmtwrEffect_comm (u := fun s => { s with plcells := v })⟩ }
  | _ => exact { effect := .inr ⟨rfl, rfl⟩ }

theorem readReg_set_align (s : State) {n : Nat} {k : Fin 7} (hn : n ≠ 16 + k.val) (v : Byte) :
    readReg { s with align := s.align.set k.val v } n = readReg s n := by
  refine readReg_congr (h16 := fun h => ?_)
  have hk : k.val ≠ n - 16 := by omega
  exact Vector.getElem?_set_ne k.isLt hk

theorem setaln_unread (k : Fin 7) (b p : Byte) (s : State) (v : Byte) :
    Unread (fun s => { s with align := s.align.set k.val v }) (fun s => s.align[k])
      (.setaln b p) s := by
  by_cases hb : b.toNat = k.val
  · have heq : (s.align.set k.val v).setIfInBounds b.toNat p = s.align.setIfInBounds b.toNat p := by
      refine Vector.ext fun j hj => ?_
      simp only [Vector.getElem_setIfInBounds, Vector.getElem_set, hb]
      split_ifs <;> rfl
    exact { effect := .inl (congrArg (fun a => { s with align := a }) heq) }
  · have heq : (s.align.set k.val v).setIfInBounds b.toNat p =
        (s.align.setIfInBounds b.toNat p).set k.val v := by
      refine Vector.ext fun j hj => ?_
      simp only [Vector.getElem_setIfInBounds, Vector.getElem_set]
      by_cases hbj : b.toNat = j
      · have hkj : k.val ≠ j := fun hkj => hb (hbj.trans hkj.symm)
        rw [if_pos hbj, if_neg hkj, if_pos hbj]
      · rw [if_neg hbj, if_neg hbj]
    refine { effect := .inr ⟨?_, congrArg (fun a => { s with align := a }) heq⟩ }
    exact (Vector.getElem_setIfInBounds _).trans (if_neg hb)

theorem align_unread {i : Instr} (k : Fin 7) (hmbuild : i ≠ .mbuild)
    (hencode : ∀ a, i ≠ .encode a) (hrdreg : i ≠ .rdreg (BitVec.ofNat 8 (16 + k.val)))
    (s : State) (v : Byte) :
    Unread (fun s => { s with align := s.align.set k.val v }) (fun s => s.align[k]) i s := by
  cases i with
  | mbuild => exact absurd rfl hmbuild
  | encode a => exact absurd rfl (hencode a)
  | rdreg n => exact .rdreg (readReg_set_align s (rdreg_toNat_ne hrdreg) v)
  | setaln b p => exact setaln_unread k b p s v
  | sreset => exact { effect := .inl rfl }
  | gfinit => exact { effect := .inr ⟨rfl, by simp only [effectOf, gfinitEffect]⟩ }
  | rsenc =>
    exact { effect := .inr ⟨by rw [effectOf, rsencEffect_frame],
      rsencEffect_comm (u := fun s => { s with align := s.align.set k.val v })⟩ }
  | place =>
    exact { effect := .inr ⟨rfl,
      placeEffect_comm (u := fun s => { s with align := s.align.set k.val v })⟩ }
  | fmtwr =>
    exact { effect := .inr ⟨rfl,
      fmtwrEffect_comm (u := fun s => { s with align := s.align.set k.val v })⟩ }
  | _ => exact { effect := .inr ⟨rfl, rfl⟩ }

/-- Settles O14: no register is read by a command outside its column. -/
theorem registerReaders : Obligations.RegisterReaders := fun i s t h =>
  ⟨fun v h1 h2 h3 => (version_unread h1 h2 h3 s v).blindTo {} h,
    fun v h1 h2 h3 => (eclbits_unread h1 h2 h3 s v).blindTo {} h,
    fun v h1 h2 h3 => (alncnt_unread h1 h2 h3 s v).blindTo {} h,
    fun v h1 h2 h3 h4 h5 h6 => (cwlen_unread h1 h2 h3 h4 h5 h6 s v).blindTo {} h,
    fun v h1 => (ndata_unread h1 s v).blindTo {} h,
    fun v h1 h2 h3 h4 h5 h6 => (nec_unread h1 h2 h3 h4 h5 h6 s v).blindTo {} h,
    fun v h1 h2 h3 h4 h5 h6 => (msize_unread h1 h2 h3 h4 h5 h6 s v).blindTo {} h,
    fun v h1 => (fmt_unread h1 s v).blindTo {} h,
    fun v h1 => (plcells_unread h1 s v).blindTo {} h,
    fun k v h1 h2 h3 => (align_unread k h1 h2 h3 s v).blindTo {} h⟩

end Sys2Proof.Machine
end

section
/-!
SUPPORT. Memory (spec/20_memory.md): the elements that the valid flags and counts let a command read
are written (R64), the read commands write nothing (R59), and each array has its writers (R51).
-/

namespace Sys2Proof.Machine

open Sys2Proof.Claims

/-- A property that legal registers and consistent flags help every accepted single-stage command to
keep is kept by every step. -/
theorem step_keeps_of_legal {P : State → Prop} (hcore : CoreOnly P)
    (hreset : ∀ s : State, P s.restart)
    (hstage : ∀ i s, (∀ n, i ≠ .encode n) → Accepted i s → s.RegistersLegal → s.FlagsConsistent →
      P s → P (effectOf i s))
    {s t : State} (hr : s.RegistersLegal) (hf : s.FlagsConsistent) (hs : P s)
    (h : step s = .next t) : P t :=
  (step_keeps ((coreOnly_registersLegal.and coreOnly_flagsConsistent).and hcore)
    (fun s => ⟨⟨registersLegal_restart s, flagsConsistent_restart s⟩, hreset s⟩)
    (fun i s hi hacc ⟨⟨hr, hf⟩, hs⟩ =>
      ⟨⟨registersLegal_effectOf hi hacc hr hf, flagsConsistent_effectOf hi hacc hf⟩,
        hstage i s hi hacc hr hf hs⟩)
    ⟨⟨hr, hf⟩, hs⟩ h).2

/-! ### Written elements (R64) -/

theorem isSome_readCell_writeCell {α : Type} {m : Cells α} {b : Nat} (h : (readCell m b).isSome)
    (a : Nat) (v : α) : (readCell (writeCell m a v) b).isSome := by
  rw [readCell_writeCell]
  split
  · rfl
  · exact h

/-- Every cell of a matrix of side `n` is written. -/
def Filled (n : Nat) (g : Grid) : Prop := ∀ r < n, ∀ c < n, (readGrid g r c).isSome

theorem writeKept_filled (size n : Nat) : WriteKept size (Filled n) :=
  fun _ _ _ _ _ _ h r hr c hc => isSome_readCell_writeCell (h r hr c hc) _ _

/-- `allocate()` writes the whole matrix (R152), and the builder's later writes keep it written. -/
theorem filled_mbuildEffect {s : State} (hlegal : alignLegal s) :
    Filled (Config.SIZE s.version.toNat) (mbuildEffect s).mod ∧
      Filled (Config.SIZE s.version.toNat) (mbuildEffect s).rsv := by
  have hkept := writeKept_filled (Config.SIZE s.version.toNat) (Config.SIZE s.version.toNat)
  have hmod : Filled _ (allocate (Config.SIZE s.version.toNat) ⟨s.mod, s.rsv⟩).mod :=
    fun r hr c hc => Option.isSome_of_eq_some (allocate_reads _ hr hc).1
  have hrsv : Filled _ (allocate (Config.SIZE s.version.toNat) ⟨s.mod, s.rsv⟩).rsv :=
    fun r hr c hc => Option.isSome_of_eq_some (allocate_reads _ hr hc).2
  obtain ⟨hm, hr⟩ := mbuildEffect_related (s := s) (s' := s) rfl rfl hlegal hkept.writeStable
    hkept.writeStable (by rintro _ _ ⟨-, rfl⟩ _ _ _ _; rfl) ⟨⟨hmod, rfl⟩, ⟨hrsv, rfl⟩⟩
  exact ⟨hm.1, hr.1⟩

/-- Every index of LOG[1..255] is a power of 2 (R112 (b)), so GFINIT writes it. -/
theorem isSome_readCell_gfinitEffect_log (s : State) {a : Nat} (h1 : 1 ≤ a) (h255 : a ≤ 255) :
    (readCell (gfinitEffect s).log a).isSome := by
  have ha : (BitVec.ofNat 8 a).toNat = a := by
    rw [BitVec.toNat_ofNat, Nat.mod_eq_of_lt (by omega)]
  obtain ⟨i, hi, hpower⟩ := exists_gfPower_eq (a := BitVec.ofNat 8 a)
    (mt (byte_toNat_eq_zero_iff _).2 (by omega))
  rw [← ha, ← hpower, readCell_gfinitEffect_log s hi]
  rfl

theorem isSome_readCell_clearRem (s : State) {n j : Nat} (hj : j < n) :
    (readCell (clearRem n s).rem j).isSome := by
  rw [readCell_clearRem, if_pos hj]
  rfl

theorem isSome_readCell_rsStep (b : Byte) {s : State} {j : Nat} (hj : j < s.nec.toNat) :
    (readCell (rsStep b s).rem j).isSome := by
  rw [readCell_rsStep, if_pos hj]
  rfl

/-- The divider clears REM[0..NEC-1] and writes it again at every byte (R137). -/
theorem isSome_readCell_divided {s : State} {j : Nat} (hj : j < s.nec.toNat) :
    (readCell (divided s).rem j).isSome :=
  divided_keeps (P := fun t => (readCell t.rem j).isSome) (isSome_readCell_clearRem s hj)
    fun _ b hnec _ => isSome_readCell_rsStep b (hnec ▸ hj)

/-- RSENC leaves the buffer written as far as its new CWLEN (R137). -/
theorem isSome_readCell_rsencEffect_cw {s : State} (h : s.Written) {i : Nat}
    (hi : i < s.cwlen.toNat + s.nec.toNat) : (readCell (rsencEffect s).cw i).isSome := by
  rw [readCell_rsencEffect_cw]
  split
  · rfl
  · exact h.cw i (by omega)

/-- CWPUSH leaves the buffer written as far as its new CWLEN (R97). -/
theorem isSome_readCell_cwpush {s : State} (h : s.Written) (b : Byte) {i : Nat}
    (hi : i < s.cwlen.toNat + 1) : (readCell (writeCell s.cw s.cwlen.toNat b) i).isSome := by
  rw [readCell_writeCell]
  split
  · rfl
  · exact h.cw i (by omega)

theorem coreOnly_written : CoreOnly State.Written :=
  ⟨fun _ h => { h with }, fun _ _ h => { h with }, fun _ _ h => { h with }⟩

/-- After reset every flag and CWLEN are 0: no element may be read (R231). -/
theorem written_restart (s : State) : s.restart.Written where
  exp := Bool.noConfusion
  log := Bool.noConfusion
  gen := Bool.noConfusion
  rem := Bool.noConfusion
  cw := fun _ hi => absurd hi (Nat.not_lt_zero _)
  mod := Bool.noConfusion
  rsv := Bool.noConfusion

theorem written_gfinitEffect {s : State} (h : s.Written) : (gfinitEffect s).Written := by
  have hexp : ∀ i < 255, (readCell (gfinitEffect s).exp i).isSome := fun i hi => by
    rw [readCell_gfinitEffect_exp, if_pos hi]
    rfl
  have hlog : ∀ a, 1 ≤ a → a ≤ 255 → (readCell (gfinitEffect s).log a).isSome :=
    fun _ h1 h255 => isSome_readCell_gfinitEffect_log s h1 h255
  rw [gfinitEffect_frame]
  generalize (gfinitEffect s).exp = exp, (gfinitEffect s).log = log at *
  exact { h with exp := fun _ => hexp, log := fun _ => hlog }

theorem written_rsencEffect {s : State} (hacc : Accepted .rsenc s) (h : s.Written) :
    (rsencEffect s).Written := by
  obtain ⟨-, -, hcap⟩ := accepted_rsenc hacc
  have hcw : ∀ i < (s.cwlen + s.nec.setWidth 10).toNat, (readCell (rsencEffect s).cw i).isSome := by
    rw [toNat_cwlen_add_nec hcap]
    exact fun _ hi => isSome_readCell_rsencEffect_cw h hi
  rw [rsencEffect_frame]
  exact { h with rem := fun _ _ hj => isSome_readCell_divided hj, cw := hcw }

theorem written_effectOf {i : Instr} {s : State} (hi : ∀ n, i ≠ .encode n) (hacc : Accepted i s)
    (hr : s.RegistersLegal) (hf : s.FlagsConsistent) (h : s.Written) : (effectOf i s).Written := by
  cases i with
  | encode n => exact absurd rfl (hi n)
  | sreset => exact written_restart s
  | cwclr => exact { h with cw := fun _ hi => absurd hi (Nat.not_lt_zero _) }
  | cwpush b =>
    have hlen := toNat_cwlen_succ (cwlen_lt_of_cwpush hacc hr)
    exact { h with cw := fun i hi => isSome_readCell_cwpush h b (hi.trans_eq hlen) }
  | gfinit => exact written_gfinitEffect h
  | rsgen n =>
    exact { h with
      gen := fun _ _ hj => Option.isSome_of_eq_some (readCell_rsgenEffect_gen n s hj)
      rem := fun _ _ hj => isSome_readCell_clearRem _ hj }
  | rsclr => exact { h with rem := fun _ _ hj => isSome_readCell_clearRem s hj }
  | rsbyte b => exact { h with rem := fun _ _ hj => isSome_readCell_rsStep b hj }
  | rsenc => exact written_rsencEffect hacc h
  | mbuild =>
    obtain ⟨-, -, hsize⟩ := size_legal hr hf (eq_true_of_ne_false hacc.seq)
    have hfilled := filled_mbuildEffect (not_not.1 hacc.arg)
    rw [← hsize] at hfilled
    exact { h with mod := fun _ => hfilled.1, rsv := fun _ => hfilled.2 }
  | place =>
    exact { h with mod := fun hv => traverse_mod_keeps (writeKept_filled _ _) (h.mod hv) }
  | mask =>
    exact { h with mod := fun hv => maskEffect_mod_keeps (writeKept_filled _ _) (h.mod hv) }
  | fmtwr =>
    exact { h with
      mod := fun hv => fmtwrEffect_mod_keeps (le_max_left 9 _) (le_max_right _ _)
        (writeKept_filled _ _) (h.mod hv) }
  | _ => exact { h with }

/-- Settles O21: a command that sets a flag or raises a count writes the elements it opens, and no
command takes an element out of a memory but reset, which closes them all. -/
theorem stepKeepsReadableWritten : Obligations.StepKeepsReadableWritten := fun _ _ hr hf hw h =>
  step_keeps_of_legal coreOnly_written written_restart
    (fun _ _ hi hacc hr hf hs => written_effectOf hi hacc hr hf hs) hr hf hw h

/-! ### Which commands write (R51, R59) -/

/-- Settles O11: a read command has the identity as its effect, so `exec_outcome` leaves it the
response and the latch. -/
theorem readCommandsChangeNothing : Obligations.ReadCommandsChangeNothing := by
  intro i s t hi h
  rcases exec_outcome h with ⟨e, he, -, -, ht⟩ | ⟨d, ht⟩
  · exact .inr ⟨e, he, ht⟩
  · have heffect : effectOf i s = s := by
      cases i with
      | gfexp | gflog | gfmul | rdgen | rdrem | rdcw | rdmod | rdrsv | rdreg | bchenc => rfl
      | _ => exact hi.elim
    rw [heffect] at ht
    exact .inl ⟨d, ht⟩

/-- Settles O12: a failing command writes no array, and each effect writes the arrays of its
frame. -/
theorem arrayWriters : Obligations.ArrayWriters := by
  intro i s t h
  rcases exec_inversion h with ⟨e, -, -, rfl⟩ | ⟨-, rfl⟩
  · simp
  · cases i with
    | gfinit => rw [effectOf, gfinitEffect_frame]; simp
    | rsgen n => rw [effectOf, rsgenEffect_frame]; simp
    | rsclr => rw [effectOf, clearRem_frame]; simp
    | rsbyte b => rw [effectOf, rsStep_frame]; simp
    | rsenc => rw [effectOf, rsencEffect_frame]; simp
    | mbuild => rw [effectOf, mbuildEffect_frame]; simp
    | place => rw [effectOf, placeEffect_frame]; simp
    | mask => rw [effectOf, maskEffect_frame]; simp
    | fmtwr => rw [effectOf, fmtwrEffect_frame]; simp
    | encode n =>
      obtain ⟨k, gen, rem, cw, mod, rsv, hframe⟩ := encodeEffect_frame n s
      simp [effectOf, hframe]
    | _ => simp [effectOf]

end Sys2Proof.Machine
end

section
/-!
SUPPORT. The decoder and the encoder (spec/30_encoding.md R71 to R79): the fields of the words of
each format, the opcode map as a relation, and the decoder's three outcomes.
-/

namespace Sys2Proof

open Sys2Proof.Claims

/-! ### The operand fields of the encoder's words (R72) -/

theorem aField_wordA (op a : Byte) : aField (wordA op a) = a := by
  rw [aField, wordA, BitVec.extractLsb'_append_eq_of_le (by decide),
    BitVec.extractLsb'_append_eq_of_le (by decide)]
  exact BitVec.extractLsb'_append_eq_right

theorem aField_wordAB (op a b : Byte) : aField (wordAB op a b) = a := by
  rw [aField, wordAB, BitVec.extractLsb'_append_eq_of_le (by decide),
    BitVec.extractLsb'_append_eq_of_le (by decide)]
  exact BitVec.extractLsb'_append_eq_right

theorem bField_wordAB (op a b : Byte) : bField (wordAB op a b) = b := by
  rw [bField, wordAB, BitVec.extractLsb'_append_eq_of_le (by decide)]
  exact BitVec.extractLsb'_append_eq_right

theorem idxField_wordX (op : Byte) (idx : Half) : idxField (wordX op idx) = idx :=
  BitVec.extractLsb'_append_eq_right

/-! ### The outcomes of the decoder (R75, R77, R79) -/

theorem decode_eq_ok_iff {w : Word} {i : Instr} :
    decode w = .ok i ↔
      ∃ r, rowOf (opField w) = some r ∧ r.format.fits w = true ∧ r.assemble w = i := by
  unfold decode
  cases rowOf (opField w) with
  | none => simp
  | some r => by_cases hfits : r.format.fits w = true <;> simp [hfits]

theorem decode_eq_reservedOp_iff {w : Word} :
    decode w = .error .reservedOp ↔ rowOf (opField w) = none := by
  unfold decode
  cases rowOf (opField w) with
  | none => simp
  | some r => by_cases hfits : r.format.fits w = true <;> simp [hfits]

theorem decode_wordZ {op : Byte} {i : Instr} (h : rowOf op = some (.z i)) :
    decode (wordZ op) = .ok i :=
  decode_eq_ok_iff.2 ⟨.z i, by rw [opField_wordZ, h], fits_wordZ op, rfl⟩

theorem decode_wordA {op : Byte} {f : Byte → Instr} (h : rowOf op = some (.a f)) (a : Byte) :
    decode (wordA op a) = .ok (f a) :=
  decode_eq_ok_iff.2
    ⟨.a f, by rw [opField_wordA, h], fits_wordA op a, by rw [Row.assemble, aField_wordA]⟩

theorem decode_wordAB {op : Byte} {f : Byte → Byte → Instr} (h : rowOf op = some (.ab f))
    (a b : Byte) : decode (wordAB op a b) = .ok (f a b) :=
  decode_eq_ok_iff.2
    ⟨.ab f, by rw [opField_wordAB, h], fits_wordAB op a b,
      by rw [Row.assemble, aField_wordAB, bField_wordAB]⟩

theorem decode_wordX {op : Byte} {f : Half → Instr} (h : rowOf op = some (.x f)) (idx : Half) :
    decode (wordX op idx) = .ok (f idx) :=
  decode_eq_ok_iff.2
    ⟨.x f, by rw [opField_wordX, h], fits_wordX op idx, by rw [Row.assemble, idxField_wordX]⟩

/-- Settles O1: the command's opcode selects its row of the opcode map, and the words of the row's
format keep the operands in their fields. -/
theorem decodeOfEncode : Obligations.DecodeOfEncode := by
  intro i
  cases i with
  | nop | cwclr | clrerr | sreset | gfinit | rsclr | rsenc | mbuild | place | mask | fmtwr =>
    exact decode_wordZ rfl
  | setver | setecl | setalnc | cwpush | rdreg | gfexp | gflog | rsgen | rsbyte | rdgen | rdrem
  | bchenc | encode => exact decode_wordA rfl _
  | setaln | rdmod | rdrsv | gfmul => exact decode_wordAB rfl _ _
  | rdcw => exact decode_wordX rfl _

/-! ### The opcode map as a relation (R74) -/

/-- The opcodes are different bytes. -/
theorem opcodeMap_keys : (opcodeMap.map Prod.fst).Nodup ∧ ∀ p ∈ opcodeMap, p.1 < 256 := by
  decide

theorem lookup_eq_some_of_mem {β : Type} {k : Nat} {b : β} {l : List (Nat × β)}
    (hl : (l.map Prod.fst).Nodup) (h : (k, b) ∈ l) : l.lookup k = some b := by
  obtain ⟨l₁, l₂, rfl⟩ := List.append_of_mem h
  rw [List.map_append, List.map_cons, List.nodup_append] at hl
  refine List.lookup_eq_some_iff.2 ⟨l₁, l₂, rfl, fun p hp => bne_iff_ne.2 (Ne.symm ?_)⟩
  exact hl.2.2 p.1 (List.mem_map_of_mem hp) k List.mem_cons_self

theorem rowOf_eq_some_iff {op : Byte} {r : Row} :
    rowOf op = some r ↔ (op.toNat, r) ∈ opcodeMap := by
  refine ⟨fun h => ?_, lookup_eq_some_of_mem opcodeMap_keys.1⟩
  obtain ⟨l₁, l₂, hmap, -⟩ := List.lookup_eq_some_iff.1 h
  simp [hmap]

/-- The entries of the map, their opcodes as bytes, are the rows that `rowOf` finds. -/
theorem exists_mem_opcodeMap_iff {P : Byte → Row → Prop} :
    (∃ p ∈ opcodeMap, P (BitVec.ofNat 8 p.1) p.2) ↔ ∃ op r, rowOf op = some r ∧ P op r := by
  constructor
  · rintro ⟨⟨n, r⟩, hmem, h⟩
    have hn : (BitVec.ofNat 8 n).toNat = n := Nat.mod_eq_of_lt (opcodeMap_keys.2 _ hmem)
    exact ⟨_, r, rowOf_eq_some_iff.2 (hn.symm ▸ hmem), h⟩
  · rintro ⟨op, r, hrow, h⟩
    exact ⟨_, rowOf_eq_some_iff.1 hrow, by rwa [BitVec.ofNat_toNat, BitVec.setWidth_eq]⟩

/-! ### A word from its fields -/

/-- The word of format `f` with opcode `op` and the operand fields of `w` (R72). -/
def Format.layout (op : Byte) (w : Word) : Format → Word
  | .z => wordZ op
  | .a => wordA op (aField w)
  | .ab => wordAB op (aField w) (bField w)
  | .x => wordX op (idxField w)

/-- The layout keeps every bit but those that the format requires to be zero. -/
theorem layout_opField (f : Format) (w : Word) :
    f.layout (opField w) w = w &&& ~~~ f.mustBeZero := by
  apply BitVec.eq_of_getLsbD_eq
  intro i hi
  cases f <;>
    simp only [Format.layout, wordZ, wordA, wordAB, wordX, opField, aField, bField, idxField,
      BitVec.getLsbD_and, BitVec.getLsbD_append, Format.mustBeZero, Format.fixedBits] <;>
    interval_cases i <;> simp

theorem fits_iff {f : Format} {w : Word} : f.fits w = true ↔ w &&& f.mustBeZero = 0#32 :=
  beq_iff_eq

theorem layout_of_fits {f : Format} {w : Word} (h : f.fits w = true) :
    f.layout (opField w) w = w := by
  calc f.layout (opField w) w
      = w &&& ~~~ f.mustBeZero ||| w &&& f.mustBeZero := by
        rw [layout_opField, fits_iff.1 h, BitVec.or_zero]
    _ = w := by
        rw [← BitVec.and_or_distrib_left, BitVec.not_or_self, BitVec.and_allOnes]

/-- The encoder lays out a row's command in the row's format (R72, R74). -/
theorem encode_assemble {op : Byte} {r : Row} (h : rowOf op = some r) (w : Word) :
    encode (r.assemble w) = r.format.layout op w := by
  have hall : ∀ p ∈ opcodeMap,
      encode (p.2.assemble w) = p.2.format.layout (BitVec.ofNat 8 p.1) w := by
    simp [opcodeMap, hostRows, codingRows, matrixRows, encode, Row.assemble, Row.format,
      Format.layout]
  simpa using hall _ (rowOf_eq_some_iff.1 h)

/-- Settles O2: the encoder lays the command out from the fields of the word, and a word that fits
its format has no other bit. -/
theorem encodeOfDecode : Obligations.EncodeOfDecode := by
  intro w i h
  obtain ⟨r, hrow, hfits, rfl⟩ := decode_eq_ok_iff.1 h
  rw [encode_assemble hrow, layout_of_fits hfits]

/-! ### The rows of the opcode table (R72, R74) -/

theorem wordZ_inj {op op' : Byte} : wordZ op = wordZ op' ↔ op = op' :=
  ⟨fun h => by simpa [opField_wordZ] using congrArg opField h, congrArg wordZ⟩

theorem and_opMask (w : Word) : w &&& 0xFF000000#32 = wordZ (opField w) :=
  (layout_opField .z w).symm

theorem fixedBits_eq (f : Format) : f.fixedBits = 0xFF000000#32 ||| f.mustBeZero := by
  cases f <;> rfl

theorem opField_and_fixedBits (f : Format) (w : Word) :
    opField (w &&& f.fixedBits) = opField w := by
  have hmask : opField f.fixedBits = BitVec.allOnes 8 := by cases f <;> rfl
  calc opField (w &&& f.fixedBits)
      = opField w &&& opField f.fixedBits := BitVec.extractLsb'_and
    _ = opField w := by rw [hmask, BitVec.and_allOnes]

theorem fits_and_fixedBits (f : Format) (w : Word) : f.fits (w &&& f.fixedBits) = f.fits w := by
  have hmask : f.fixedBits &&& f.mustBeZero = f.mustBeZero := by cases f <;> rfl
  rw [Format.fits, Format.fits, BitVec.and_assoc, hmask]

/-- A word without operand bits fits every format. -/
theorem fits_wordZ_of_any (f : Format) (op : Byte) : f.fits (wordZ op) = true := by
  have hmask : 0xFF000000#32 &&& f.mustBeZero = 0#32 := by cases f <;> rfl
  rw [fits_iff, ← opField_wordZ op, ← and_opMask, BitVec.and_assoc, hmask, BitVec.and_zero]

/-- A word matches a row of the table exactly when it has the row's opcode and fits the row's
format (R72, R77). -/
theorem and_fixedBits_eq_wordZ_iff {f : Format} {w : Word} {op : Byte} :
    w &&& f.fixedBits = wordZ op ↔ opField w = op ∧ f.fits w = true := by
  constructor
  · intro h
    rw [← opField_and_fixedBits f w, ← fits_and_fixedBits, h]
    exact ⟨opField_wordZ op, fits_wordZ_of_any f op⟩
  · rintro ⟨rfl, hfits⟩
    rw [fixedBits_eq, BitVec.and_or_distrib_left, and_opMask, fits_iff.1 hfits, BitVec.or_zero]

theorem mem_tableRows_iff {row : Word × Word} :
    row ∈ tableRows ↔ ∃ op r, rowOf op = some r ∧ row = (wordZ op, r.format.fixedBits) := by
  have htable : tableRows =
      opcodeMap.map fun p => (wordZ (BitVec.ofNat 8 p.1), p.2.format.fixedBits) := rfl
  rw [htable, List.mem_map, ← exists_mem_opcodeMap_iff]
  simp only [eq_comm]

/-- The rows that a word matches: the row of its opcode, if the word fits its format. -/
theorem matches_tableRow_iff {w : Word} {row : Word × Word} :
    row ∈ tableRows ∧ w &&& row.2 = row.1 ↔
      ∃ r, rowOf (opField w) = some r ∧ r.format.fits w = true ∧
        row = (wordZ (opField w), r.format.fixedBits) := by
  constructor
  · rintro ⟨hmem, hmatch⟩
    obtain ⟨op, r, hrow, rfl⟩ := mem_tableRows_iff.1 hmem
    obtain ⟨rfl, hfits⟩ := and_fixedBits_eq_wordZ_iff.1 hmatch
    exact ⟨r, hrow, hfits, rfl⟩
  · rintro ⟨r, hrow, hfits, rfl⟩
    exact ⟨mem_tableRows_iff.2 ⟨_, r, hrow, rfl⟩, and_fixedBits_eq_wordZ_iff.2 ⟨rfl, hfits⟩⟩

theorem decode_eq_ok_iff_matches {w : Word} :
    (∃ i, decode w = .ok i) ↔ ∃ row ∈ tableRows, w &&& row.2 = row.1 := by
  simp only [decode_eq_ok_iff, matches_tableRow_iff]
  constructor
  · rintro ⟨i, r, hrow, hfits, -⟩
    exact ⟨_, r, hrow, hfits, rfl⟩
  · rintro ⟨row, r, hrow, hfits, -⟩
    exact ⟨_, r, hrow, hfits, rfl⟩

theorem decode_eq_reservedOp_iff_tableRows {w : Word} :
    decode w = .error .reservedOp ↔ ∀ row ∈ tableRows, w &&& 0xFF000000#32 ≠ row.1 := by
  rw [decode_eq_reservedOp_iff, and_opMask]
  constructor
  · intro hnone row hmem heq
    obtain ⟨op, r, hrow, rfl⟩ := mem_tableRows_iff.1 hmem
    rw [← wordZ_inj.1 heq, hnone] at hrow
    contradiction
  · intro h
    exact Option.eq_none_iff_forall_ne_some.2 fun r hrow =>
      h _ (mem_tableRows_iff.2 ⟨_, r, hrow, rfl⟩) rfl

theorem tableRow_unique {w : Word} {row row' : Word × Word} (h : row ∈ tableRows)
    (h' : row' ∈ tableRows) (hmatch : w &&& row.2 = row.1) (hmatch' : w &&& row'.2 = row'.1) :
    row = row' := by
  obtain ⟨r, hrow, -, rfl⟩ := matches_tableRow_iff.1 ⟨h, hmatch⟩
  obtain ⟨r', hrow', -, rfl⟩ := matches_tableRow_iff.1 ⟨h', hmatch'⟩
  rw [Option.some.inj (hrow.symm.trans hrow')]

/-- Settles O3: the rows of the table are the rows of `rowOf`, and a word matches the one of its
opcode or none. -/
theorem wordsMatchTheTable : Obligations.WordsMatchTheTable := fun _ =>
  ⟨decode_eq_ok_iff_matches, decode_eq_reservedOp_iff_tableRows,
    fun _ h _ h' => tableRow_unique h h'⟩

/-- Settles O4: the legal words are the encoder's, so O1 decodes them; the illegal ones are
computed. -/
theorem specWordsDecode : Obligations.SpecWordsDecode :=
  ⟨decodeOfEncode (.setver 1#8), decodeOfEncode (.setaln 6#8 50#8), decodeOfEncode (.rdcw 511#16),
    decodeOfEncode (.gfmul 0x53#8 0xCA#8), decodeOfEncode (.rsgen 255#8), decodeOfEncode .mbuild,
    decodeOfEncode .place, decodeOfEncode .mask, decodeOfEncode (.bchenc 31#8),
    decodeOfEncode (.encode 10#8), by decide, by decide⟩

end Sys2Proof
end

section
/-!
SUPPORT. The response to a command word (spec/30_encoding.md R75 to R77, R82).
-/

namespace Sys2Proof.Machine

open Sys2Proof.Claims

/-- Settles O6: the word's event is taken off the host's list, and ERR_OPCODE raised. -/
theorem stepAnswersIllegalWord : Obligations.StepAnswersIllegalWord := by
  intro s w rest e hin hd
  rw [step_of_illegal hin hd, State.dequeue, hin, List.tail_cons, raise_eq,
    responseWord_eq_failWord]
  rfl

/-- No command takes an event of the host. -/
theorem effectOf_inputs (i : Instr) (s : State) : (effectOf i s).inputs = s.inputs := by
  cases i with
  | rsenc => rw [effectOf, rsencEffect_frame]
  | encode n =>
    obtain ⟨k, gen, rem, cw, mod, rsv, hframe⟩ := encodeEffect_frame n s
    rw [effectOf, hframe]
  | _ => rfl

/-! ### The fields of a response (R76) -/

theorem responseWord_err (e : ErrCode) (d : Half) :
    (responseWord e d).extractLsb' 28 4 = e.code := by
  rw [responseWord, BitVec.extractLsb'_append_eq_of_le (by decide)]
  exact BitVec.extractLsb'_append_eq_left

theorem responseWord_zeros (e : ErrCode) (d : Half) :
    (responseWord e d).extractLsb' 16 12 = 0#12 := by
  rw [responseWord, BitVec.extractLsb'_append_eq_of_le (by decide)]
  exact BitVec.extractLsb'_append_eq_right

theorem responseWord_data (e : ErrCode) (d : Half) : (responseWord e d).extractLsb' 0 16 = d :=
  BitVec.extractLsb'_append_eq_right

theorem code_le_four (e : ErrCode) : e.code.toNat ≤ 4 := by
  cases e <;> decide

/-- A command word is answered once: with data and no error, or with an error and no data (R82,
R212). -/
theorem step_answers {s : State} {w : Word} {rest : List HostEvent}
    (hin : s.inputs = .command w :: rest) :
    ∃ (t : State) (e : ErrCode) (d : Half), step s = .next t ∧ t.inputs = rest ∧
      t.responses = s.responses ++ [responseWord e d] ∧ (e = .ok ∨ d = 0#16) := by
  have hrest : s.dequeue.inputs = rest := congrArg List.tail hin
  cases hd : decode w with
  | error e => exact ⟨_, .opcode, 0#16, step_of_illegal hin hd, hrest, rfl, .inr rfl⟩
  | ok i =>
    rw [step_of_command hin hd]
    rcases exec_cases i s.dequeue with ⟨e, h⟩ | ⟨d, h⟩
    · exact ⟨_, e, 0#16, h, hrest, rfl, .inr rfl⟩
    · refine ⟨_, .ok, d, h, (effectOf_inputs i _).trans hrest, ?_, .inl rfl⟩
      rw [State.emit_responses, effectOf_responses, State.dequeue_responses]

/-- Settles O8: the one response of `step_answers`, read field by field. -/
theorem everyCommandAnsweredOnce : Obligations.EveryCommandAnsweredOnce := by
  intro s w rest hin
  obtain ⟨t, e, d, hstep, hrest, hresp, hed⟩ := step_answers hin
  refine ⟨t, responseWord e d, hstep, hrest, hresp, responseWord_zeros e d, ?_, fun herr => ?_⟩
  · rw [responseWord_err]
    exact code_le_four e
  · rw [responseWord_err] at herr
    rw [responseWord_data]
    exact hed.resolve_left fun he => herr (congrArg ErrCode.code he)

end Sys2Proof.Machine
end

section
/-!
SUPPORT. The words of a command as the claims write them (spec/30_encoding.md R72), and the two ways
a command ends as the claims write them (R76, R212).
-/

namespace Sys2Proof.Claims

/-! ### Encodings -/

theorem codedZ_of_rowOf {op : Byte} {i : Instr} (h : rowOf op = some (.z i)) : codedZ op i := by
  have hword : (op ++ 0#24 : BitVec 32) = wordZ op := by
    apply BitVec.eq_of_toNat_eq
    simp only [wordZ, BitVec.toNat_append, BitVec.toNat_ofNat]
    simp [← Nat.shiftLeft_add]
  rw [codedZ, hword]
  exact decode_wordZ h

theorem codedA_of_rowOf {op : Byte} {f : Byte → Instr} (h : rowOf op = some (.a f)) :
    codedA op f := by
  intro a
  have hword : (op ++ a ++ 0#16 : BitVec 32) = wordA op a := by
    apply BitVec.eq_of_toNat_eq
    simp only [wordA, BitVec.toNat_append, BitVec.toNat_ofNat]
    simp [← Nat.shiftLeft_add]
  rw [hword]
  exact decode_wordA h a

theorem codedAB_of_rowOf {op : Byte} {f : Byte → Byte → Instr} (h : rowOf op = some (.ab f)) :
    codedAB op f := decode_wordAB h

theorem codedX_of_rowOf {op : Byte} {f : Half → Instr} (h : rowOf op = some (.x f)) :
    codedX op f := decode_wordX h

end Sys2Proof.Claims

namespace Sys2Proof.Machine

open Sys2Proof.Claims

/-! ### How a command ends, in the words of the claims -/

theorem raise_eq_failed (e : ErrCode) (s : State) : raise e s = .next (failed s e) := by
  rw [raise_eq, responseWord_eq_failWord]
  rfl

theorem exec_fails_seq {i : Instr} {s : State} (h : seqWhen i s) :
    exec i s = .next (failed s .seq) := by
  rw [exec_of_seqWhen h, raise_eq_failed]

theorem exec_fails_arg {i : Instr} {s : State} (hseq : ¬ seqWhen i s) (h : argWhen i s) :
    exec i s = .next (failed s .arg) := by
  rw [exec_of_argWhen hseq h, raise_eq_failed]

theorem exec_fails_cap {i : Instr} {s : State} (hseq : ¬ seqWhen i s) (harg : ¬ argWhen i s)
    (h : capWhen i s) : exec i s = .next (failed s .cap) := by
  rw [exec_of_capWhen hseq harg h, raise_eq_failed]

theorem exec_succeeds {i : Instr} {s : State} (h : Accepted i s) :
    exec i s = .next { effectOf i s with responses := answered s (dataOf i s) } := by
  rw [exec_of_accepted h, respond_eq, effectOf_responses, responseWord_ok]
  rfl

end Sys2Proof.Machine
end

section
/-!
SUPPORT. The host access commands (spec/40_host_access.md R91 to R103) and the reset input (R230).
-/

namespace Sys2Proof.Machine

open Sys2Proof.Claims

/-! ### Reset -/

theorem exec_sreset (s : State) : exec .sreset s =
    .next { State.reset with inputs := s.inputs, responses := answered s 0#16 } :=
  exec_succeeds ⟨id, id, id⟩

/-- Settles O28: SRESET checks nothing, its effect is `State.restart`. -/
theorem sresetRestoresReset : Obligations.SresetRestoresReset :=
  ⟨codedZ_of_rowOf rfl, exec_sreset⟩

/-- Settles O7: the step on a reset event and the effect of SRESET are both `State.restart`. -/
theorem resetInputEqualsSreset : Obligations.ResetInputEqualsSreset := by
  intro s ev rest hin hev
  refine ⟨?_, exec_sreset _⟩
  rw [step_of_reset hin hev, State.restart, State.dequeue_inputs, hin]
  rfl

/-! ### Settings -/

/-- Settles O23: NOP and CWCLR check nothing, SETVER its operand. -/
theorem plainSettings : Obligations.PlainSettings := by
  refine ⟨⟨codedZ_of_rowOf rfl, fun s => exec_succeeds ⟨id, id, id⟩⟩,
    ⟨codedA_of_rowOf rfl, fun v s => ⟨fun hv => ?_, fun h1 h10 => ?_⟩⟩,
    ⟨codedZ_of_rowOf rfl, fun s => exec_succeeds ⟨id, id, id⟩⟩⟩
  · exact exec_fails_arg id (hv.imp_left Nat.lt_one_iff.1)
  · have harg : ¬ argWhen (.setver v) s := by simp only [argWhen]; omega
    rw [BitVec.ofNat_toNat]
    exact exec_succeeds ⟨id, harg, id⟩

/-- Settles O24: the SET commands check their first operand, CLRERR nothing. -/
theorem storedSettings : Obligations.StoredSettings := by
  refine ⟨⟨codedA_of_rowOf rfl, fun e s => ⟨fun he => exec_fails_arg id he, fun he => ?_⟩⟩,
    ⟨codedA_of_rowOf rfl, fun c s => ⟨fun hc => exec_fails_arg id hc, fun hc => ?_⟩⟩,
    ⟨codedAB_of_rowOf rfl, fun k p s => ⟨fun hk => exec_fails_arg id hk, fun hk => ?_⟩⟩,
    ⟨codedZ_of_rowOf rfl, fun s => exec_succeeds ⟨id, id, id⟩⟩⟩
  · rw [BitVec.ofNat_toNat]
    exact exec_succeeds ⟨id, Nat.not_lt.2 he, id⟩
  · rw [BitVec.ofNat_toNat]
    exact exec_succeeds ⟨id, Nat.not_lt.2 hc, id⟩
  · refine ⟨_, exec_succeeds ⟨id, Nat.not_lt.2 hk, id⟩, fun j => ?_, rfl⟩
    simp [effectOf, Vector.getElem_setIfInBounds, eq_comm]

/-! ### The codeword buffer -/

/-- Settles O25: ECV is checked before the room in the buffer; the write is at CWLEN. -/
theorem cwpushAppends : Obligations.CwpushAppends := by
  refine ⟨codedA_of_rowOf rfl, fun b s => ⟨fun hecv => exec_fails_seq hecv, fun hecv hfull => ?_,
    fun hecv hroom => ?_⟩⟩
  · exact exec_fails_cap (ne_true_of_eq_false hecv) id hfull
  · exact ⟨_, exec_succeeds ⟨ne_true_of_eq_false hecv, id, hroom⟩, readCell_writeCell_same ..,
      fun j hj => readCell_writeCell_other _ _ hj.ne, rfl⟩

/-! ### Reading an element -/

theorem bitData_eq (b : Bool) : bitData b = if b then 1#16 else 0#16 := by
  cases b <;> rfl

/-- Settles O26: RDCW checks its index against CWLEN, RDMOD and RDRSV check MATV and then the cell
against MSIZE. -/
theorem elementReadBack : Obligations.ElementReadBack := by
  refine ⟨⟨codedX_of_rowOf rfl, fun idx s => ⟨fun hidx => exec_fails_arg id hidx, fun hidx => ?_⟩⟩,
    codedAB_of_rowOf rfl, codedAB_of_rowOf rfl, fun r c s => ⟨fun hmatv => ?_,
      fun hmatv hout => ?_, fun hmatv hr hc => ?_⟩⟩
  · exact exec_succeeds ⟨id, Nat.not_le.2 hidx, id⟩
  · exact ⟨exec_fails_seq hmatv, exec_fails_seq hmatv⟩
  · have hseq := ne_false_of_eq_true hmatv
    exact ⟨exec_fails_arg hseq hout, exec_fails_arg hseq hout⟩
  · have hseq := ne_false_of_eq_true hmatv
    have harg := not_or.2 ⟨Nat.not_le.2 hr, Nat.not_le.2 hc⟩
    rw [← bitData_eq, ← bitData_eq]
    exact ⟨exec_succeeds ⟨hseq, harg, id⟩, exec_succeeds ⟨hseq, harg, id⟩⟩

/-! ### Reading a register -/

theorem exec_rdreg {n : Byte} {s : State} {d : Half} (h : readReg s n.toNat = some d) :
    exec (.rdreg n) s = .next { s with responses := answered s d } := by
  have harg : ¬ argWhen (.rdreg n) s :=
    (readReg_eq_none_iff s n.toNat).not.1 (h ▸ Option.some_ne_none d)
  rw [exec_succeeds ⟨id, harg, id⟩, dataOf, h]
  rfl

theorem getLsbD_status_word (t : Status) (k : Fin 12) : t.word.getLsbD k.val =
    #v[t.tblv, t.genv, t.ecv, t.verv, t.eclv, t.matv, t.placed, t.masked, t.fmtd, t.plshort,
      t.plover, false][k] := by
  simp only [Status.word, BitVec.getLsbD_append, BitVec.getLsbD_ofBool]
  fin_cases k <;> simp

theorem extractLsb'_status_word_err (t : Status) : t.word.extractLsb' 12 4 = t.err.code := by
  rw [Status.word]
  iterate 12 rw [BitVec.extractLsb'_append_eq_of_le (by decide)]
  exact BitVec.extractLsb'_eq_self

/-- Settles O27: the register numbers are those `readReg` answers, and the fields of STATUS stand
where R24 puts them. -/
theorem rdregReturnsRegister : Obligations.RdregReturnsRegister := by
  refine ⟨codedA_of_rowOf rfl, fun s => ⟨fun k => exec_rdreg ?_, fun k => exec_rdreg ?_,
    fun n hn => exec_fails_arg id ?_, getLsbD_status_word s.status, ?_⟩⟩
  · fin_cases k <;> rfl
  · fin_cases k <;> rfl
  · exact hn.imp_left fun h => ⟨h.1, Nat.le_of_lt_succ h.2⟩
  · rw [extractLsb'_status_word_err, ← responseWord_eq_failWord, responseWord_err]

end Sys2Proof.Machine
end

section
/-!
SUPPORT. Multiplication in GF(256): the carry-less product reduced by 0x11D (spec/41_gf.md R115),
its values on the powers of 2, and the laws that follow from them.
-/

namespace Sys2Proof.Machine

open Sys2Proof.Claims

/-! ### Exclusive-or passes through the product -/

/-- A loop whose steps commute with exclusive-or, as a whole commutes with it. -/
theorem foldl_xor {w : Nat} {γ : Type} {f g h : BitVec w → γ → BitVec w}
    (hstep : ∀ p q c, f (p ^^^ q) c = g p c ^^^ h q c) (l : List γ) (p q : BitVec w) :
    l.foldl f (p ^^^ q) = l.foldl g p ^^^ l.foldl h q := by
  induction l generalizing p q with
  | nil => rfl
  | cons c l ih => rw [List.foldl_cons, hstep, ih]; rfl

/-- Selecting a term by a bit commutes with exclusive-or of what is selected and of the rest. -/
theorem ite_xor_same {w : Nat} (b : Bool) (p q u v : BitVec w) :
    (if b then (p ^^^ q) ^^^ (u ^^^ v) else p ^^^ q) =
      (if b then p ^^^ u else p) ^^^ (if b then q ^^^ v else q) := by
  cases b with
  | false => rfl
  | true => simp only [if_true]; ac_rfl

/-- Selecting a term by an exclusive-or of bits takes it by each of them. -/
theorem ite_xor_bits {w : Nat} (b c : Bool) (p q v : BitVec w) :
    (if b ^^ c then (p ^^^ q) ^^^ v else p ^^^ q) =
      (if b then p ^^^ v else p) ^^^ (if c then q ^^^ v else q) := by
  match b, c with
  | false, false => rfl
  | false, true => exact BitVec.xor_assoc p q v
  | true, false => exact show (p ^^^ q) ^^^ v = (p ^^^ v) ^^^ q by ac_rfl
  | true, true =>
    calc p ^^^ q = (p ^^^ q) ^^^ (v ^^^ v) := by simp
      _ = (p ^^^ v) ^^^ (q ^^^ v) := by ac_rfl

/-- The carry-less product before its reduction: a shifted copy of `a` for each bit of `b`. -/
def rawProduct (a b : Byte) : BitVec 15 :=
  (List.range 8).foldl (fun p i => if b.getLsbD i then p ^^^ (a.setWidth 15 <<< i) else p) 0#15

/-- Clear the bits 14 to 8 from the top with shifted copies of 0x11D. -/
def reduceBits (p : BitVec 15) : BitVec 15 :=
  [14, 13, 12, 11, 10, 9, 8].foldl
    (fun p i => if p.getLsbD i then p ^^^ (0x11D#15 <<< (i - 8)) else p) p

theorem carrylessProduct_eq (a b : Byte) :
    carrylessProduct a b = (reduceBits (rawProduct a b)).setWidth 8 := rfl

theorem rawProduct_xor_left (a b c : Byte) :
    rawProduct (a ^^^ b) c = rawProduct a c ^^^ rawProduct b c := by
  refine foldl_xor (fun p q i => ?_) _ 0#15 0#15
  rw [BitVec.setWidth_xor, BitVec.shiftLeft_xor_distrib, ite_xor_same]

theorem rawProduct_xor_right (a b c : Byte) :
    rawProduct a (b ^^^ c) = rawProduct a b ^^^ rawProduct a c := by
  refine foldl_xor (fun p q i => ?_) _ 0#15 0#15
  rw [BitVec.getLsbD_xor, ite_xor_bits]

theorem reduceBits_xor (p q : BitVec 15) :
    reduceBits (p ^^^ q) = reduceBits p ^^^ reduceBits q := by
  refine foldl_xor (fun p q i => ?_) _ p q
  rw [BitVec.getLsbD_xor, ite_xor_bits]

theorem carrylessProduct_xor_left (a b c : Byte) :
    carrylessProduct (a ^^^ b) c = carrylessProduct a c ^^^ carrylessProduct b c := by
  simp only [carrylessProduct_eq, rawProduct_xor_left, reduceBits_xor, BitVec.setWidth_xor]

theorem carrylessProduct_xor_right (a b c : Byte) :
    carrylessProduct a (b ^^^ c) = carrylessProduct a b ^^^ carrylessProduct a c := by
  simp only [carrylessProduct_eq, rawProduct_xor_right, reduceBits_xor, BitVec.setWidth_xor]

theorem gfTimes2_eq_ite (b : Byte) :
    gfTimes2 b = if b.getLsbD 7 then (b <<< 1) ^^^ 0x1D#8 else b <<< 1 := by
  rw [gfTimes2]
  split
  · rfl
  · exact BitVec.xor_zero

theorem gfTimes2_xor (a b : Byte) : gfTimes2 (a ^^^ b) = gfTimes2 a ^^^ gfTimes2 b := by
  simp only [gfTimes2_eq_ite, BitVec.getLsbD_xor, BitVec.shiftLeft_xor_distrib, ite_xor_bits]

/-- What holds of the single bits and passes through exclusive-or holds of every byte. -/
theorem byte_xor_induction {P : Byte → Prop} (bit : ∀ i < 8, P (1#8 <<< i))
    (xor : ∀ a b, P a → P b → P (a ^^^ b)) (a : Byte) : P a := by
  have hbits : ∀ a : Byte, a = (List.range 8).foldl
      (fun p i => if a.getLsbD i then p ^^^ (1#8 <<< i) else p) 0#8 := by decide +kernel
  rw [hbits a]
  refine foldl_keeps (xor 1#8 1#8 (bit 0 (by decide)) (bit 0 (by decide))) fun p hp i hi => ?_
  split
  · exact xor p _ hp (bit i (List.mem_range.1 hi))
  · exact hp

/-! ### The product on the powers of 2 -/

theorem carrylessProduct_one_left (b : Byte) : carrylessProduct 1#8 b = b := by
  revert b
  decide +kernel

/-- Doubling a factor doubles the product: both sides pass through exclusive-or, and agree on the
single bits. -/
theorem carrylessProduct_gfTimes2_left (a b : Byte) :
    carrylessProduct (gfTimes2 a) b = gfTimes2 (carrylessProduct a b) := by
  induction a using byte_xor_induction with
  | xor a a' ha ha' =>
    rw [gfTimes2_xor, carrylessProduct_xor_left, ha, ha', carrylessProduct_xor_left, gfTimes2_xor]
  | bit i hi =>
    induction b using byte_xor_induction with
    | xor b b' hb hb' =>
      rw [carrylessProduct_xor_right, hb, hb', carrylessProduct_xor_right, gfTimes2_xor]
    | bit j hj =>
      revert i j
      decide +kernel

theorem carrylessProduct_gfPower (i j : Nat) :
    carrylessProduct (gfPower i) (gfPower j) = gfPower (i + j) := by
  induction i with
  | zero => rw [gfPower, carrylessProduct_one_left, Nat.zero_add]
  | succ i ih => rw [gfPower, carrylessProduct_gfTimes2_left, ih, Nat.succ_add, gfPower]

theorem gfPower_mod (n : Nat) : gfPower (n % 255) = gfPower n := by
  rw [gfPower_eq_iterate, gfPower_eq_iterate, ← minimalPeriod_gfTimes2,
    Function.iterate_mod_minimalPeriod_eq]

/-- R112 (a). -/
theorem gfPower_order : gfPower 255 = 1#8 := (gfPower_mod 255).symm

/-! ### The laws of the product (R115) -/

theorem carrylessProduct_zero_left (b : Byte) : carrylessProduct 0#8 b = 0#8 := by
  simpa using carrylessProduct_xor_left 0#8 0#8 b

theorem carrylessProduct_zero_right (a : Byte) : carrylessProduct a 0#8 = 0#8 := by
  simpa using carrylessProduct_xor_right a 0#8 0#8

theorem eq_zero_or_gfPower (a : Byte) : a = 0#8 ∨ ∃ i < 255, gfPower i = a :=
  or_iff_not_imp_left.2 exists_gfPower_eq

theorem carrylessProduct_comm (a b : Byte) : carrylessProduct a b = carrylessProduct b a := by
  rcases eq_zero_or_gfPower a with rfl | ⟨i, -, rfl⟩
  · rw [carrylessProduct_zero_left, carrylessProduct_zero_right]
  rcases eq_zero_or_gfPower b with rfl | ⟨j, -, rfl⟩
  · rw [carrylessProduct_zero_left, carrylessProduct_zero_right]
  rw [carrylessProduct_gfPower, carrylessProduct_gfPower, Nat.add_comm]

theorem carrylessProduct_one_right (a : Byte) : carrylessProduct a 1#8 = a := by
  rw [carrylessProduct_comm, carrylessProduct_one_left]

theorem carrylessProduct_assoc (a b c : Byte) :
    carrylessProduct (carrylessProduct a b) c = carrylessProduct a (carrylessProduct b c) := by
  rcases eq_zero_or_gfPower a with rfl | ⟨i, -, rfl⟩
  · simp only [carrylessProduct_zero_left]
  rcases eq_zero_or_gfPower b with rfl | ⟨j, -, rfl⟩
  · simp only [carrylessProduct_zero_left, carrylessProduct_zero_right]
  rcases eq_zero_or_gfPower c with rfl | ⟨k, -, rfl⟩
  · simp only [carrylessProduct_zero_right]
  simp only [carrylessProduct_gfPower, Nat.add_assoc]

theorem eq_zero_of_carrylessProduct {a b : Byte} (h : carrylessProduct a b = 0#8) :
    a = 0#8 ∨ b = 0#8 := by
  rcases eq_zero_or_gfPower a with ha | ⟨i, -, rfl⟩
  · exact .inl ha
  rcases eq_zero_or_gfPower b with hb | ⟨j, -, rfl⟩
  · exact .inr hb
  rw [carrylessProduct_gfPower] at h
  exact absurd h (gfPower_ne_zero _)

end Sys2Proof.Machine
end

section
/-!
SUPPORT. The Galois-field commands (spec/41_gf.md R114 to R119).
-/

namespace Sys2Proof.Machine

open Sys2Proof.Claims

/-! ### What built tables hold (R111) -/

section
variable {s : State} (h : tabled s)
include h

theorem readExp_of_tabled {i : Nat} (hi : i < 255) : readExp s i = gfPower i := by
  rw [readExp, h.2.exp h.1 i hi, Option.getD_some]

theorem readLog_gfPower {i : Nat} (hi : i < 255) :
    (readLog s (gfPower i).toNat).toNat = i := by
  rw [readLog, h.2.log h.1 i hi, Option.getD_some, BitVec.toNat_ofNat, Nat.mod_eq_of_lt (by omega)]

/-- The logarithm of a non-zero byte is its exponent (R30). -/
theorem readLog_of_tabled {a : Byte} (ha : a ≠ 0#8) :
    (readLog s a.toNat).toNat < 255 ∧ gfPower (readLog s a.toNat).toNat = a := by
  obtain ⟨i, hi, rfl⟩ := exists_gfPower_eq ha
  rw [readLog_gfPower h hi]
  exact ⟨hi, rfl⟩

/-- Multiplication by table lookup is the carry-less product (R115 (g)). -/
theorem gfmul_eq_carrylessProduct (a b : Byte) : gfmul s a b = carrylessProduct a b := by
  rw [gfmul]
  split
  · next hzero =>
    rcases hzero with rfl | rfl
    · rw [carrylessProduct_zero_left]
    · rw [carrylessProduct_zero_right]
  · next hne =>
    rw [not_or] at hne
    obtain ⟨-, ha⟩ := readLog_of_tabled h hne.1
    obtain ⟨-, hb⟩ := readLog_of_tabled h hne.2
    rw [Config.GF_ORDER, readExp_of_tabled h (Nat.mod_lt _ (by decide)), gfPower_mod,
      ← carrylessProduct_gfPower, ha, hb]

/-- The element at the negated logarithm is the inverse (R115 (f)). -/
theorem carrylessProduct_inverse {a : Byte} (ha : a ≠ 0#8) :
    carrylessProduct a (readExp s ((255 - (readLog s a.toNat).toNat) % 255)) = 1#8 := by
  obtain ⟨i, hi, rfl⟩ := exists_gfPower_eq ha
  rw [readLog_gfPower h hi, readExp_of_tabled h (Nat.mod_lt _ (by decide)), gfPower_mod,
    carrylessProduct_gfPower, Nat.add_sub_cancel' hi.le, gfPower_order]

end

/-! ### The commands -/

/-- Settles O30: 2 has the order 255, so its powers are distinct and fill the non-zero bytes. -/
theorem powersOfTwoCycle : Obligations.PowersOfTwoCycle :=
  ⟨gfPower_order, by decide,
    fun i hi => ⟨gfPower_ne_zero i, fun _ hj heq => gfPower_injOn hi hj heq⟩,
    fun _ => exists_gfPower_eq⟩

theorem exec_gfinit (s : State) : exec .gfinit s = .next { s with
    exp := (gfinitEffect s).exp, log := (gfinitEffect s).log,
    status := { s.status with tblv := true }, responses := answered s 0#16 } := by
  rw [exec_succeeds ⟨id, id, id⟩, effectOf, gfinitEffect_frame]
  rfl

/-- Settles O29: GFINIT checks nothing, and its builder writes every power and its exponent. -/
theorem gfinitBuildsTables : Obligations.GfinitBuildsTables := by
  refine ⟨codedZ_of_rowOf rfl, fun s => ?_⟩
  have hexp := (tablesBuilt_gfinitEffect s).exp rfl
  have hlog := (tablesBuilt_gfinitEffect s).log rfl
  rw [exec_gfinit]
  generalize (gfinitEffect s).exp = exp, (gfinitEffect s).log = log at *
  exact ⟨_, rfl, hexp, hlog, rfl⟩

/-- Settles O31: both commands check TBLV and then their operand, and answer the element. -/
theorem expAndLogLookups : Obligations.ExpAndLogLookups := by
  refine ⟨⟨codedA_of_rowOf rfl, fun i s => ⟨fun htblv => exec_fails_seq htblv,
      fun htblv hi => ?_, fun htblv hi => ?_, fun h hi => ?_⟩⟩,
    ⟨codedA_of_rowOf rfl, fun a s => ⟨fun htblv => exec_fails_seq htblv,
      fun htblv ha => ?_, fun htblv ha => ?_, fun h ha => ?_⟩⟩⟩
  · exact exec_fails_arg (ne_false_of_eq_true htblv) (congrArg BitVec.toNat hi)
  · exact exec_succeeds ⟨ne_false_of_eq_true htblv, fun harg => hi (BitVec.eq_of_toNat_eq harg), id⟩
  · exact readExp_of_tabled h (by bv_omega)
  · exact exec_fails_arg (ne_false_of_eq_true htblv) (congrArg BitVec.toNat ha)
  · exact exec_succeeds ⟨ne_false_of_eq_true htblv, fun harg => ha (BitVec.eq_of_toNat_eq harg), id⟩
  · obtain ⟨hlt, hpower⟩ := readLog_of_tabled h ha
    exact ⟨hpower, fun hlog => absurd (hlog ▸ hlt) (by decide)⟩

theorem exec_gfmul (a b : Byte) {s : State} (htblv : s.status.tblv = true) :
    exec (.gfmul a b) s = .next { s with responses := answered s (byteData (gfmul s a b)) } :=
  exec_succeeds ⟨ne_false_of_eq_true htblv, id, id⟩

/-- Settles O32: GFMUL checks TBLV, and built tables make the lookup the carry-less product. -/
theorem gfmulIsCarrylessProduct : Obligations.GfmulIsCarrylessProduct := by
  refine ⟨codedAB_of_rowOf rfl, fun a b s => ⟨fun htblv => exec_fails_seq htblv,
    fun htblv => ?_, fun h => ⟨gfmul_eq_carrylessProduct h a b, ?_⟩⟩⟩
  · rw [exec_gfmul a b htblv, gfmul, apply_ite byteData]
    rfl
  · rw [exec_gfmul a b h.1, gfmul_eq_carrylessProduct h]
    rfl

/-- Settles O33: the laws of the carry-less product, which the lookup computes. -/
theorem fieldLaws : Obligations.FieldLaws := by
  intro s h a b c
  simp only [gfmul_eq_carrylessProduct h]
  exact ⟨carrylessProduct_comm a b, carrylessProduct_one_right a, carrylessProduct_zero_right a,
    carrylessProduct_assoc a b c, carrylessProduct_xor_right a b c, eq_zero_of_carrylessProduct,
    carrylessProduct_inverse h⟩

end Sys2Proof.Machine
end

section
/-!
SUPPORT. The Reed-Solomon commands (spec/42_rs.md R133 to R139): what the division steps leave of
the remainder register, and how each command ends.
-/

namespace Sys2Proof.Machine

open Sys2Proof.Claims

/-! ### The divider (R135, R137) -/

/-- The state after RSENC's divider has consumed CW[0..k-1] from a register of zeros (R137). -/
def dividedUpTo (s : State) (k : Nat) : State :=
  (List.range k).foldl (fun t i => rsStep (readCw s i) t) (clearRem s.nec.toNat s)

theorem divided_eq_dividedUpTo (s : State) : divided s = dividedUpTo s s.cwlen.toNat := rfl

theorem dividedUpTo_succ (s : State) (k : Nat) :
    dividedUpTo s (k + 1) = rsStep (readCw s k) (dividedUpTo s k) := by
  rw [dividedUpTo, List.range_succ, List.foldl_append]
  rfl

theorem dividedUpTo_frame (s : State) (k : Nat) :
    dividedUpTo s k = { s with rem := (dividedUpTo s k).rem } := by
  rw [dividedUpTo, foldl_rsStep_frame]
  rfl

theorem readRem_of_readCell {s : State} {j : Nat} {b : Byte} (h : readCell s.rem j = some b) :
    readRem s j = b := by
  rw [readRem, h, Option.getD_some]

/-- A slot depends on the old register, the tables and the generator only (R135). -/
theorem rsSlot_with_rem (s : State) (rem : Memory) (n : Nat) (lead : Byte) (j : Nat) :
    rsSlot { s with rem := rem } n lead j =
      (if j + 1 < n then readRem { s with rem := rem } (j + 1) else 0#8) ^^^
        gfmul s (readGen s (j + 1)) lead := rfl

/-- The divider computes `remAfter`, slot by slot. -/
theorem readCell_dividedUpTo (s : State) (k : Nat) {j : Nat} (hj : j < s.nec.toNat) :
    readCell (dividedUpTo s k).rem j = some (remAfter s k j) := by
  induction k generalizing j with
  | zero => exact (readCell_clearRem _ s j).trans (if_pos hj)
  | succ k ih =>
    have hrem : ∀ {j}, j < s.nec.toNat → readRem (dividedUpTo s k) j = remAfter s k j :=
      fun hj => readRem_of_readCell (ih hj)
    have hnec : (dividedUpTo s k).nec = s.nec := by rw [dividedUpTo_frame]
    rw [dividedUpTo_succ, readCell_rsStep, hnec, if_pos hj, hrem (Nat.zero_lt_of_lt hj),
      dividedUpTo_frame, rsSlot_with_rem, ← dividedUpTo_frame, remAfter]
    split
    · next hj1 => rw [hrem hj1]
    · rfl

theorem readCell_divided (s : State) {j : Nat} (hj : j < s.nec.toNat) :
    readCell (divided s).rem j = some (remAfter s s.cwlen.toNat j) := by
  rw [divided_eq_dividedUpTo, readCell_dividedUpTo s _ hj]

/-! ### RSGEN -/

theorem readCell_rsgenEffect_rem (n : Byte) (s : State) {j : Nat} (hj : j < n.toNat) :
    readCell (rsgenEffect n s).rem j = some 0#8 :=
  (readCell_clearRem n.toNat { s with gen := writeList s.gen 0 (genArray s n.toNat), nec := n }
    j).trans (if_pos hj)

theorem exec_rsgen {n : Byte} {s : State} (htblv : s.status.tblv = true) (hn : n ≠ 0#8) :
    exec (.rsgen n) s = .next { rsgenEffect n s with responses := answered s 0#16 } :=
  exec_succeeds ⟨ne_false_of_eq_true htblv, mt (byte_toNat_eq_zero_iff n).1 hn, id⟩

/-- Settles O34: RSGEN checks TBLV and then its operand; its builder runs the recurrence and the
register is cleared. -/
theorem rsgenBuildsGenerator : Obligations.RsgenBuildsGenerator := by
  refine ⟨codedA_of_rowOf rfl, fun n s => ⟨fun htblv => exec_fails_seq htblv,
    fun htblv hn => ?_, fun htblv hn => ?_⟩⟩
  · exact exec_fails_arg (ne_false_of_eq_true htblv) ((byte_toNat_eq_zero_iff n).2 hn)
  · exact ⟨_, exec_rsgen htblv hn, fun j hj => readCell_rsgenEffect_gen n s hj,
      fun j hj => readCell_rsgenEffect_rem n s hj, rfl⟩

/-! ### RSCLR and RSBYTE -/

/-- Settles O35: both commands check GENV; the slots are those of `clearRem` and `rsStep`. -/
theorem remainderRegisterSteps : Obligations.RemainderRegisterSteps := by
  refine ⟨⟨codedZ_of_rowOf rfl, fun s => ⟨fun hgenv => exec_fails_seq hgenv, fun hgenv => ?_⟩⟩,
    ⟨codedA_of_rowOf rfl, fun b s => ⟨fun hgenv => exec_fails_seq hgenv, fun hgenv => ?_⟩⟩⟩
  · exact ⟨_, exec_succeeds ⟨ne_false_of_eq_true hgenv, id, id⟩,
      fun j hj => (readCell_clearRem _ s j).trans (if_pos hj), rfl⟩
  · refine ⟨_, exec_succeeds ⟨ne_false_of_eq_true hgenv, id, id⟩, fun j hj => ?_, rfl⟩
    have hlast : j + 1 ≤ s.nec.toNat - 1 ↔ j + 1 < s.nec.toNat := by omega
    simp only [hlast]
    exact (readCell_rsStep b s j).trans (if_pos hj)

/-! ### RSENC -/

theorem exec_rsenc {s : State} (hgenv : s.status.genv = true) (hecv : s.status.ecv = false)
    (hroom : s.cwlen.toNat + s.nec.toNat ≤ 512) :
    exec .rsenc s = .next { rsencEffect s with responses := answered s 0#16 } :=
  exec_succeeds ⟨not_or.2 ⟨ne_false_of_eq_true hgenv, ne_true_of_eq_false hecv⟩, id,
    Nat.not_lt.2 hroom⟩

theorem readCell_rsencEffect_cw_data (s : State) {i : Nat} (hi : i < s.cwlen.toNat) :
    readCell (rsencEffect s).cw i = readCell s.cw i := by
  rw [readCell_rsencEffect_cw, if_neg (by omega)]

theorem readCell_rsencEffect_cw_appended (s : State) {j : Nat} (hj : j < s.nec.toNat) :
    readCell (rsencEffect s).cw (s.cwlen.toNat + j) = some (remAfter s s.cwlen.toNat j) := by
  rw [readCell_rsencEffect_cw, if_pos (by omega), Nat.add_sub_cancel_left,
    readRem_of_readCell (readCell_divided s hj)]

theorem cwlen_rsencEffect (s : State) (hroom : s.cwlen.toNat + s.nec.toNat ≤ 512) :
    (rsencEffect s).cwlen.toNat = s.cwlen.toNat + s.nec.toNat := by
  rw [rsencEffect_frame]
  simp only [BitVec.toNat_add, BitVec.toNat_setWidth]
  omega

/-- Settles O36: RSENC checks GENV and ECV and then the room in the buffer; the divider leaves
`remAfter`, which goes behind the data. -/
theorem rsencAppendsRemainder : Obligations.RsencAppendsRemainder := by
  refine ⟨codedZ_of_rowOf rfl, fun s => ⟨fun hseq => exec_fails_seq hseq,
    fun hgenv hecv hfull => ?_, fun hgenv hecv hroom => ?_⟩⟩
  · exact exec_fails_cap
      (not_or.2 ⟨ne_false_of_eq_true hgenv, ne_true_of_eq_false hecv⟩) id hfull
  · refine ⟨_, exec_rsenc hgenv hecv hroom,
      fun j hj => ⟨readCell_divided s hj, readCell_rsencEffect_cw_appended s hj⟩,
      fun j hj => readCell_rsencEffect_cw_data s hj, cwlen_rsencEffect s hroom, ?_⟩
    rw [rsencEffect_frame]

/-! ### RDGEN and RDREM -/

/-- Settles O37: both commands check GENV and then the index against NEC, and answer the element. -/
theorem polynomialReadBack : Obligations.PolynomialReadBack := by
  refine ⟨⟨codedA_of_rowOf rfl, fun j s => ⟨fun hgenv => exec_fails_seq hgenv,
      fun hgenv hj => exec_fails_arg (ne_false_of_eq_true hgenv) hj, fun hgenv hj => ?_⟩⟩,
    ⟨codedA_of_rowOf rfl, fun j s => ⟨fun hgenv => exec_fails_seq hgenv,
      fun hgenv hj => exec_fails_arg (ne_false_of_eq_true hgenv) hj, fun hgenv hj => ?_⟩⟩⟩
  · exact exec_succeeds ⟨ne_false_of_eq_true hgenv, Nat.not_lt.2 hj, id⟩
  · exact exec_succeeds ⟨ne_false_of_eq_true hgenv, Nat.not_le.2 hj, id⟩

end Sys2Proof.Machine
end

section
/-!
SUPPORT. The polynomials of the Reed-Solomon coder (spec/42_rs.md R130): the value by Horner's rule,
the roots of the generator (R132), and the remainder identity (R140).
-/

namespace Sys2Proof.Machine

open Sys2Proof.Claims

/-! ### Horner's rule -/

/-- Horner's rule at `x` over the coefficients `c 0, ..., c (n - 1)`, highest power first, from the
accumulator `acc`. -/
def horner (x acc : Byte) (c : Nat → Byte) : Nat → Byte
  | 0 => acc
  | n + 1 => carrylessProduct (horner x acc c n) x ^^^ c n

/-- With the tables built, `polyValue` is Horner's rule from 0 (R130). -/
theorem polyValue_eq_horner {s : State} (h : tabled s) (c : Nat → Byte) (n : Nat) (x : Byte) :
    polyValue s ((List.range n).map c) x = horner x 0#8 c n := by
  induction n with
  | zero => rfl
  | succ n ih =>
    rw [horner, ← ih, polyValue, List.range_succ, List.map_append, List.foldl_append,
      ← gfmul_eq_carrylessProduct h]
    rfl

theorem horner_congr {x acc : Byte} {c d : Nat → Byte} {n : Nat} (h : ∀ j < n, c j = d j) :
    horner x acc c n = horner x acc d n := by
  induction n with
  | zero => rfl
  | succ n ih =>
    rw [horner, horner, h n (Nat.lt_succ_self n), ih fun j hj => h j (Nat.lt_succ_of_lt hj)]

theorem horner_zero (x : Byte) {c : Nat → Byte} (hc : ∀ j, c j = 0#8) (n : Nat) :
    horner x 0#8 c n = 0#8 := by
  induction n with
  | zero => rfl
  | succ n ih => rw [horner, ih, hc, carrylessProduct_zero_left, BitVec.xor_zero]

/-- The first `m` coefficients make the accumulator of the others. -/
theorem horner_add (x acc : Byte) (c : Nat → Byte) (m n : Nat) :
    horner x acc c (m + n) = horner x (horner x acc c m) (fun j => c (m + j)) n := by
  induction n with
  | zero => rfl
  | succ n ih => rw [← Nat.add_assoc, horner, ih, horner]

theorem horner_succ_left (x acc : Byte) (c : Nat → Byte) (n : Nat) :
    horner x acc c (n + 1) =
      horner x (carrylessProduct acc x ^^^ c 0) (fun j => c (j + 1)) n := by
  rw [Nat.add_comm, horner_add, horner_congr fun j _ => congrArg c (Nat.add_comm 1 j)]
  rfl

theorem horner_xor (x a b : Byte) (c d : Nat → Byte) (n : Nat) :
    horner x (a ^^^ b) (fun j => c j ^^^ d j) n = horner x a c n ^^^ horner x b d n := by
  induction n with
  | zero => rfl
  | succ n ih =>
    simp only [horner, ih, carrylessProduct_xor_left]
    ac_rfl

theorem horner_mul (x a k : Byte) (c : Nat → Byte) (n : Nat) :
    horner x (carrylessProduct a k) (fun j => carrylessProduct (c j) k) n =
      carrylessProduct (horner x a c n) k := by
  induction n with
  | zero => rfl
  | succ n ih =>
    rw [horner, horner, ih, carrylessProduct_xor_left, carrylessProduct_assoc,
      carrylessProduct_comm k x, ← carrylessProduct_assoc]

/-- A zero behind the `n` coefficients multiplies the value by `x`. -/
theorem horner_append_zero (x acc : Byte) (c : Nat → Byte) (n : Nat) :
    horner x acc (fun j => if j < n then c j else 0#8) (n + 1) =
      carrylessProduct (horner x acc c n) x := by
  rw [horner, if_neg (Nat.lt_irrefl n), BitVec.xor_zero, horner_congr fun j hj => if_pos hj]

/-! ### The generator (R131, R132) -/

/-- The value at `x` of the generator of degree `n`. -/
def genValue (s : State) (x : Byte) (n : Nat) : Byte := horner x 0#8 (genCoeff s n) (n + 1)

theorem genCoeff_zero (s : State) (n : Nat) : genCoeff s n 0 = 1#8 := by
  induction n with
  | zero => rfl
  | succ n ih => simp [genCoeff, ih]

section
variable {s : State} (h : tabled s)
include h

/-- R132 (b): the constant term is the product of the roots. -/
theorem genCoeff_last {n : Nat} (hn : n ≤ 255) : genCoeff s n n = gfPower (n * (n - 1) / 2) := by
  induction n with
  | zero => rfl
  | succ n ih =>
    rw [genCoeff, if_neg (Nat.not_succ_le_self n), if_pos (Nat.le_add_left 1 n), BitVec.zero_xor,
      Nat.add_sub_cancel, ih (by omega), gfmul_eq_carrylessProduct h, readExp_of_tabled h hn,
      carrylessProduct_gfPower, ← Nat.triangle_succ, Nat.add_sub_cancel]

/-- One step of the recurrence multiplies the polynomial by the factor `x ^ EXP[n]` (R131). -/
theorem genValue_succ (x : Byte) (n : Nat) :
    genValue s x (n + 1) = carrylessProduct (genValue s x n) (x ^^^ readExp s n) := by
  have hshifted : horner x 0#8 (fun j => if j ≤ n then genCoeff s n j else 0#8) (n + 2) =
      carrylessProduct (genValue s x n) x := by
    simpa only [Nat.lt_succ_iff, genValue] using horner_append_zero x 0#8 (genCoeff s n) (n + 1)
  have hscaled : horner x 0#8
      (fun j => if 1 ≤ j then gfmul s (genCoeff s n (j - 1)) (readExp s n) else 0#8) (n + 2) =
      carrylessProduct (genValue s x n) (readExp s n) := by
    rw [horner_succ_left, if_neg (by decide), genValue, ← horner_mul]
    simp [gfmul_eq_carrylessProduct h, carrylessProduct_zero_left]
  rw [carrylessProduct_xor_right, ← hshifted, ← hscaled, ← horner_xor]
  rfl

/-- R132 (c): from the factor of a root on, the value at the root is 0. -/
theorem genValue_root {i n : Nat} (hi : i < n) : genValue s (readExp s i) n = 0#8 := by
  induction n with
  | zero => omega
  | succ n ih =>
    rw [genValue_succ h]
    rcases Nat.lt_succ_iff_lt_or_eq.1 hi with hin | rfl
    · rw [ih hin, carrylessProduct_zero_left]
    · rw [BitVec.xor_self, carrylessProduct_zero_right]

end

theorem readGen_of_built {s : State} (hgenv : s.status.genv = true) (hg : s.GeneratorBuilt)
    {j : Nat} (hj : j ≤ s.nec.toNat) : readGen s j = genCoeff s s.nec.toNat j := by
  rw [readGen, hg hgenv j hj, Option.getD_some]

/-- GEN[0..NEC], as it stands, has the roots EXP[0] to EXP[NEC-1]. -/
theorem horner_readGen_root {s : State} (h : tabled s) (hgenv : s.status.genv = true)
    (hg : s.GeneratorBuilt) {i : Nat} (hi : i < s.nec.toNat) :
    horner (readExp s i) 0#8 (readGen s) (s.nec.toNat + 1) = 0#8 := by
  rw [horner_congr fun j hj => readGen_of_built hgenv hg (Nat.le_of_lt_succ hj)]
  exact genValue_root h hi

/-- Settles O38: each root is a zero of one factor, and the constant term is a power of 2. -/
theorem generatorHasItsRoots : Obligations.GeneratorHasItsRoots := by
  intro n s h hn
  refine ⟨_, exec_rsgen h.1 hn, ?_⟩
  generalize ht : { rsgenEffect n s with responses := answered s 0#16 } = t
  have htabled : tabled t := ht ▸ ⟨h.1, { h.2 with }⟩
  have hgenv : t.status.genv = true := ht ▸ rfl
  have hbuilt : t.GeneratorBuilt := ht ▸
    generatorBuilt_of_frame (generatorBuilt_rsgenEffect n s) rfl rfl rfl rfl rfl
  obtain rfl : t.nec = n := ht ▸ rfl
  have hlast : readGen t t.nec.toNat = gfPower (t.nec.toNat * (t.nec.toNat - 1) / 2) := by
    rw [readGen_of_built hgenv hbuilt (Nat.le_refl _), genCoeff_last htabled (by omega)]
  refine ⟨?_, ?_, ?_, fun i hi => ?_⟩
  · rw [readGen_of_built hgenv hbuilt (Nat.zero_le _), genCoeff_zero]
  · rw [hlast, readExp_of_tabled htabled (Nat.mod_lt _ (by decide)), gfPower_mod]
  · exact hlast ▸ gfPower_ne_zero _
  · rw [polyValue_eq_horner htabled]
    exact horner_readGen_root htabled hgenv hbuilt hi

/-! ### The remainder identity (R140) -/

/-- One division step from the register `r` with the next codeword `b`, at a root of the generator:
data followed by remainder keeps the value 0, since what the step adds to both is a multiple of the
generator. -/
theorem horner_divisionStep {x acc b : Byte} {r g : Nat → Byte} {n : Nat} (hn : 0 < n)
    (hmonic : g 0 = 1#8) (hroot : horner x 0#8 g (n + 1) = 0#8) (hr : horner x acc r n = 0#8) :
    horner x (carrylessProduct acc x ^^^ b)
      (fun j => (if j + 1 < n then r (j + 1) else 0#8) ^^^
        carrylessProduct (g (j + 1)) (r 0 ^^^ b)) n = 0#8 := by
  obtain ⟨n, rfl⟩ := Nat.exists_eq_add_of_lt hn
  rw [Nat.zero_add] at *
  have hshifted : horner x (carrylessProduct acc x ^^^ r 0)
      (fun j => if j + 1 < n + 1 then r (j + 1) else 0#8) (n + 1) = 0#8 := by
    simp only [Nat.add_lt_add_iff_right]
    rw [horner_append_zero x _ fun j => r (j + 1), ← horner_succ_left, hr,
      carrylessProduct_zero_left]
  have hmultiple : horner x (r 0 ^^^ b)
      (fun j => carrylessProduct (g (j + 1)) (r 0 ^^^ b)) (n + 1) = 0#8 := by
    have h := horner_mul x 0#8 (r 0 ^^^ b) g (n + 2)
    rw [horner_succ_left, hroot, hmonic] at h
    simpa only [carrylessProduct_zero_left, carrylessProduct_one_left, BitVec.zero_xor] using h
  have hacc : carrylessProduct acc x ^^^ b = (carrylessProduct acc x ^^^ r 0) ^^^ (r 0 ^^^ b) := by
    rw [BitVec.xor_assoc, ← BitVec.xor_assoc (r 0), BitVec.xor_self, BitVec.zero_xor]
  rw [hacc, horner_xor, hshifted, hmultiple, BitVec.xor_self]

/-- After `k` codewords the data so far, followed by the remainder, has the value 0 at every root of
the generator. -/
theorem horner_remAfter_root {s : State} (h : tabled s) (hgenv : s.status.genv = true)
    (hg : s.GeneratorBuilt) {i : Nat} (hi : i < s.nec.toNat) (k : Nat) :
    horner (readExp s i) (horner (readExp s i) 0#8 (readCw s) k) (remAfter s k) s.nec.toNat =
      0#8 := by
  have hmonic : readGen s 0 = 1#8 := by
    rw [readGen_of_built hgenv hg (Nat.zero_le _), genCoeff_zero]
  have hroot := horner_readGen_root h hgenv hg hi
  induction k with
  | zero => exact horner_zero _ (fun _ => rfl) _
  | succ k ih =>
    have hstep := horner_divisionStep (b := readCw s k) (Nat.zero_lt_of_lt hi) hmonic hroot ih
    simp only [← gfmul_eq_carrylessProduct h] at hstep
    simpa only [horner, ← gfmul_eq_carrylessProduct h, remAfter] using hstep

/-- Settles O39: the buffer RSENC leaves is the data followed by the remainder. -/
theorem codewordSyndromesAreZero : Obligations.CodewordSyndromesAreZero := by
  intro s h hgenv hg hecv hroom
  refine ⟨_, exec_rsenc hgenv hecv hroom, fun i hi => ?_⟩
  have hlen := cwlen_rsencEffect s hroom
  have hdata : ∀ j < s.cwlen.toNat, readCw (rsencEffect s) j = readCw s j := fun j hj => by
    rw [readCw, readCell_rsencEffect_cw_data s hj, readCw]
  have happended : ∀ j < s.nec.toNat,
      readCw (rsencEffect s) (s.cwlen.toNat + j) = remAfter s s.cwlen.toNat j := fun j hj => by
    rw [readCw, readCell_rsencEffect_cw_appended s hj, Option.getD_some]
  have htabled : tabled { rsencEffect s with responses := answered s 0#16 } := by
    rw [rsencEffect_frame]
    exact ⟨h.1, { h.2 with }⟩
  have hexp : readExp (rsencEffect s) i = readExp s i := by
    rw [rsencEffect_frame]
    rfl
  rw [polyValue_eq_horner htabled]
  change horner (readExp (rsencEffect s) i) 0#8 (readCw (rsencEffect s))
    (rsencEffect s).cwlen.toNat = 0#8
  rw [hexp, hlen, horner_add, horner_congr hdata, horner_congr happended]
  exact horner_remAfter_root h hgenv hg hi _

end Sys2Proof.Machine
end

section
/-!
SUPPORT. The matrix builder cell by cell (spec/43_matrix.md R152 to R159): what each sub-step leaves
in one cell of the two grids.
-/

namespace Sys2Proof.Machine

open Sys2Proof.Claims

/-- What the two grids list for cell `(r, c)`: its module and its reserved flag. -/
def cellAt (g : Grids) (r c : Nat) : Option Bool × Option Bool :=
  (readGrid g.mod r c, readGrid g.rsv r c)

/-- A fold whose steps either set an observation to the one value `v` or leave it: it is `v` at the
end when some step sets it. -/
theorem foldl_observe {β γ σ : Type} {f : β → γ → β} {obs : β → σ} {v : σ} {l : List γ}
    {hit : γ → Prop} [DecidablePred hit] {P : Prop} [Decidable P] (hP : (∃ x ∈ l, hit x) ↔ P)
    (hf : ∀ b, ∀ x ∈ l, obs (f b x) = if hit x then v else obs b) (b : β) :
    obs (l.foldl f b) = if P then v else obs b := by
  split
  · next h =>
    obtain ⟨x, hx, hhit⟩ := hP.2 h
    obtain ⟨l₁, l₂, rfl⟩ := List.append_of_mem hx
    rw [List.foldl_append, List.foldl_cons]
    refine foldl_keeps (P := fun b => obs b = v) ?_ fun b hb y hy => ?_
    · rw [hf _ x hx, if_pos hhit]
    · rw [hf _ y (by simp [hy]), hb, ite_self]
  · next h =>
    refine foldl_keeps (P := fun b' => obs b' = obs b) rfl fun b' hb' x hx => ?_
    rw [hf _ x hx, if_neg fun hhit => h (hP.1 ⟨x, hx, hhit⟩), hb']

theorem cellAt_stamp (g : Grids) {r c r' c' : Nat} (b : Bool) (hc : c < 256) (hc' : c' < 256) :
    cellAt (stamp g r c b) r' c' =
      if r' = r ∧ c' = c then (some b, some true) else cellAt g r' c' := by
  simp only [cellAt, stamp, readGrid_writeGrid _ _ hc hc']
  split <;> rfl

/-- A loop of stamps: the cell holds the one value `b` that is stamped there, if any is. -/
theorem cellAt_foldl_stamp {γ : Type} {l : List γ} {row col : γ → Nat} {val : γ → Bool}
    {r c : Nat} {b : Bool} {P : Prop} [Decidable P] (hc : c < 256)
    (hP : (∃ x ∈ l, r = row x ∧ c = col x) ↔ P) (hcol : ∀ x ∈ l, col x < 256)
    (hval : ∀ x ∈ l, r = row x ∧ c = col x → val x = b) (g : Grids) :
    cellAt (l.foldl (fun g x => stamp g (row x) (col x) (val x)) g) r c =
      if P then (some b, some true) else cellAt g r c := by
  refine foldl_observe (obs := fun g => cellAt g r c) hP (fun g x hx => ?_) g
  rw [cellAt_stamp g _ (hcol x hx) hc]
  split
  · next h => rw [hval x hx h]
  · rfl

theorem cellAt_allocate {size : Nat} (g : Grids) {r c : Nat} (hr : r < size) (hc : c < size) :
    cellAt (allocate size g) r c = (some false, some false) :=
  Prod.ext (allocate_reads g hr hc).1 (allocate_reads g hr hc).2

/-! ### Finder patterns, separators and timing patterns (R153 to R155) -/

theorem finderDark_eq (dr dc : Nat) : finderDark dr dc = finderPattern dr dc := by
  rw [Bool.eq_iff_iff]
  simp only [finderDark, finderPattern, Bool.or_eq_true, Bool.and_eq_true, beq_iff_eq, Nat.ble_eq,
    decide_eq_true_eq]
  omega

/-- Cell `(r, c)` is in the footprint of the finder at `(r0, c0)` and its separator (R154). -/
abbrev nearFinder (r0 c0 r c : Nat) : Prop := r0 ≤ r + 1 ∧ r ≤ r0 + 7 ∧ c0 ≤ c + 1 ∧ c ≤ c0 + 7

/-- Cell `(r, c)` is one of the 7 by 7 cells of the finder at `(r0, c0)` (R153). -/
abbrev inPattern (r0 c0 r c : Nat) : Prop := r0 ≤ r ∧ r ≤ r0 + 6 ∧ c0 ≤ c ∧ c ≤ c0 + 6

theorem mem_separatorCells {size r0 c0 : Nat} {p : Nat × Nat} :
    p ∈ separatorCells size r0 c0 ↔ p.1 < size ∧ p.2 < size ∧ nearFinder r0 c0 p.1 p.2 ∧
      ¬ inPattern r0 c0 p.1 p.2 := by
  simp only [separatorCells, List.mem_map, List.mem_filter, mem_block, Bool.and_eq_true,
    Bool.or_eq_true, beq_iff_eq, Nat.ble_eq, Nat.blt_eq]
  constructor
  · rintro ⟨d, hd, rfl⟩
    simp only
    omega
  · intro h
    exact ⟨(p.1 + 1 - r0, p.2 + 1 - c0), by simp only; omega, by ext <;> (simp only; omega)⟩

theorem cellAt_separator {size : Nat} (hsize : size ≤ 256) (r0 c0 : Nat) (g : Grids) {r c : Nat}
    (hr : r < size) (hc : c < size) :
    cellAt ((separatorCells size r0 c0).foldl (fun g rc => stamp g rc.1 rc.2 false) g) r c =
      if nearFinder r0 c0 r c ∧ ¬ inPattern r0 c0 r c then (some false, some true)
      else cellAt g r c := by
  refine cellAt_foldl_stamp (row := Prod.fst) (col := Prod.snd) (val := fun _ => false)
    (by omega) ⟨?_, fun h => ?_⟩ (fun rc hrc => ?_) (fun _ _ _ => rfl) g
  · rintro ⟨rc, hrc, rfl, rfl⟩
    exact (mem_separatorCells.1 hrc).2.2
  · exact ⟨(r, c), mem_separatorCells.2 ⟨hr, hc, h⟩, rfl, rfl⟩
  · exact (mem_separatorCells.1 hrc).2.1.trans_le hsize

theorem cellAt_finderBlock {r0 c0 : Nat} (hc0 : c0 + 7 ≤ 256) (g : Grids) {r c : Nat}
    (hc : c < 256) :
    cellAt ((block 0 0 7 7).foldl
        (fun g d => stamp g (r0 + d.1) (c0 + d.2) (finderDark d.1 d.2)) g) r c =
      if inPattern r0 c0 r c then (some (finderPattern (r - r0) (c - c0)), some true)
      else cellAt g r c := by
  refine cellAt_foldl_stamp (row := fun d : Nat × Nat => r0 + d.1)
    (col := fun d : Nat × Nat => c0 + d.2) (val := fun d : Nat × Nat => finderDark d.1 d.2)
    hc ⟨?_, fun h => ?_⟩ (fun d hd => ?_) ?_ g
  · rintro ⟨d, hd, rfl, rfl⟩
    have hd := mem_block.1 hd
    omega
  · exact ⟨(r - r0, c - c0), mem_block.2 (by simp only; omega), by simp only; omega⟩
  · have hd := mem_block.1 hd
    omega
  · rintro d - ⟨rfl, rfl⟩
    rw [finderDark_eq, Nat.add_sub_cancel_left, Nat.add_sub_cancel_left]

theorem cellAt_finder {size r0 c0 : Nat} (hsize : size ≤ 256) (hc0 : c0 + 7 ≤ 256) (g : Grids)
    {r c : Nat} (hr : r < size) (hc : c < size) :
    cellAt (finder size r0 c0 g) r c = if nearFinder r0 c0 r c then
      (some (decide (inPattern r0 c0 r c) && finderPattern (r - r0) (c - c0)), some true)
      else cellAt g r c := by
  rw [finder, cellAt_separator hsize r0 c0 _ hr hc, cellAt_finderBlock hc0 g (by omega)]
  by_cases hin : inPattern r0 c0 r c
  · rw [if_neg (fun h => h.2 hin), if_pos hin, if_pos (by omega), decide_eq_true hin, Bool.true_and]
  · rw [if_neg hin, decide_eq_false hin, Bool.false_and]
    simp only [hin, not_false_eq_true, and_true]

theorem cellAt_timing {size : Nat} (hsize : size ≤ 256) (g : Grids) {r c : Nat} (hc : c < size) :
    cellAt (timing size g) r c =
      if (r = 6 ∧ 8 ≤ c ∧ c + 9 ≤ size) ∨ (c = 6 ∧ 8 ≤ r ∧ r + 9 ≤ size) then
        (some ((r + c) % 2 == 0), some true)
      else cellAt g r c := by
  refine foldl_observe (obs := fun g => cellAt g r c)
    (hit := fun i => (r = i ∧ c = 6) ∨ (r = 6 ∧ c = i)) ⟨?_, ?_⟩ (fun g i hi => ?_) g
  · rintro ⟨i, hi, h⟩
    obtain ⟨k, hk, rfl⟩ := List.mem_map.1 hi
    have hk := List.mem_range.1 hk
    omega
  · rintro (⟨hr, h⟩ | ⟨hc, h⟩)
    · exact ⟨c, List.mem_map.2 ⟨c - 8, List.mem_range.2 (by omega), by omega⟩, .inr ⟨hr, rfl⟩⟩
    · exact ⟨r, List.mem_map.2 ⟨r - 8, List.mem_range.2 (by omega), by omega⟩, .inl ⟨rfl, hc⟩⟩
  · obtain ⟨k, hk, rfl⟩ := List.mem_map.1 hi
    have hk := List.mem_range.1 hk
    have heven : (k + 8 + 6) % 2 = (k + 8) % 2 ∧ (6 + (k + 8)) % 2 = (k + 8) % 2 := by omega
    rw [cellAt_stamp _ _ (by omega) (by omega), cellAt_stamp _ _ (by omega) (by omega), ite_or]
    split
    · next h => rw [h.1, h.2, heven.1]
    · split
      · next h => rw [h.1, h.2, heven.2]
      · rfl

/-- The sub-steps of MBUILD before the alignment patterns (R151). -/
def functionPatterns (size : Nat) (g : Grids) : Grids :=
  timing size
    (finder size (size - 7) 0 (finder size 0 (size - 7) (finder size 0 0 (allocate size g))))

theorem cellAt_functionPatterns {size : Nat} (h17 : 17 ≤ size) (h256 : size ≤ 256) (g : Grids)
    {r c : Nat} (hr : r < size) (hc : c < size) :
    cellAt (functionPatterns size g) r c =
      if structural size r c then (some (bareModule size r c), some true)
      else (some false, some false) := by
  have htl : (nearFinder 0 0 r c ↔ r ≤ 7 ∧ c ≤ 7) ∧
      (inPattern 0 0 r c ↔ r ≤ 6 ∧ c ≤ 6) := by omega
  have htr : (nearFinder 0 (size - 7) r c ↔ r ≤ 7 ∧ size - 8 ≤ c) ∧
      (inPattern 0 (size - 7) r c ↔ r ≤ 6 ∧ size - 7 ≤ c) := by omega
  have hbl : (nearFinder (size - 7) 0 r c ↔ size - 8 ≤ r ∧ c ≤ 7) ∧
      (inPattern (size - 7) 0 r c ↔ size - 7 ≤ r ∧ c ≤ 6) := by omega
  rw [functionPatterns, cellAt_timing h256 _ hc, cellAt_finder h256 (by omega) _ hr hc,
    cellAt_finder h256 (by omega) _ hr hc, cellAt_finder h256 (by omega) _ hr hc,
    cellAt_allocate _ hr hc, bareModule]
  simp only [htl, htr, hbl, Nat.sub_zero]
  by_cases h1 : r ≤ 7 ∧ c ≤ 7
  · rw [if_neg (by omega), if_neg (by omega), if_neg (by omega), if_pos h1, if_pos (by omega),
      if_pos h1]
  by_cases h2 : r ≤ 7 ∧ size - 8 ≤ c
  · rw [if_neg (by omega), if_neg (by omega), if_pos h2, if_pos (by omega), if_neg h1, if_pos h2]
  by_cases h3 : size - 8 ≤ r ∧ c ≤ 7
  · rw [if_neg (by omega), if_pos h3, if_pos (by omega), if_neg h1, if_neg h2, if_pos h3]
  have heven : (6 + c) % 2 = c % 2 ∧ (r + 6) % 2 = r % 2 := by omega
  rw [if_neg h1, if_neg h2, if_neg h3, if_neg h1, if_neg h2, if_neg h3]
  by_cases h4 : r = 6
  · rw [if_pos (by omega), if_pos (by omega), if_pos h4, h4, heven.1]
  by_cases h5 : c = 6
  · rw [if_pos (by omega), if_pos (by omega), if_neg h4, if_pos h5, h5, heven.2]
  · rw [if_neg (by omega), if_neg (by omega)]

/-! ### Dark module and format cells (R158, R159) -/

theorem mem_formatCells {size : Nat} (h17 : 17 ≤ size) {r c : Nat} (hr : r < size) (hc : c < size) :
    (r, c) ∈ formatCells size ↔ formatReserved size r c := by
  simp only [formatCells, formatReserved, List.mem_append, List.mem_flatMap, List.mem_map,
    List.mem_range, List.mem_cons, List.not_mem_nil, or_false, Prod.mk.injEq]
  constructor
  · rintro ((⟨i, hi, h⟩ | ⟨i, hi, h⟩) | ⟨i, hi, h⟩) <;> omega
  · rintro (⟨rfl, h | h⟩ | ⟨rfl, h | h⟩)
    · exact .inl (.inl ⟨c, by omega, .inl ⟨rfl, rfl⟩⟩)
    · exact .inl (.inr ⟨c - (size - 8), by omega, rfl, by omega⟩)
    · exact .inl (.inl ⟨r, by omega, .inr ⟨rfl, rfl⟩⟩)
    · exact .inr ⟨r - (size - 7), by omega, by omega, rfl⟩

theorem formatCells_col_lt {size : Nat} (h17 : 17 ≤ size) {rc : Nat × Nat}
    (h : rc ∈ formatCells size) : rc.2 < size := by
  simp only [formatCells, List.mem_append, List.mem_flatMap, List.mem_map, List.mem_range,
    List.mem_cons, List.not_mem_nil, or_false] at h
  rcases h with (⟨i, hi, rfl | rfl⟩ | ⟨i, hi, rfl⟩) | ⟨i, hi, rfl⟩ <;> (simp only; omega)

theorem cellAt_reserveFormat {size : Nat} (h17 : 17 ≤ size) (h256 : size ≤ 256) (g : Grids)
    {r c : Nat} (hc : c < size) :
    cellAt (reserveFormat size g) r c = ((cellAt g r c).1,
      if (r, c) ∈ formatCells size then some true else (cellAt g r c).2) := by
  have hmod : (reserveFormat size g).mod = g.mod :=
    foldl_keeps (P := fun g' : Grids => g'.mod = g.mod) rfl fun _ h _ _ => h
  have hrsv := foldl_observe (obs := fun g : Grids => readGrid g.rsv r c) (v := some true)
    (f := fun g rc => reserve g rc.1 rc.2) (hit := fun rc : Nat × Nat => r = rc.1 ∧ c = rc.2)
    (l := formatCells size) (P := (r, c) ∈ formatCells size)
    ⟨by rintro ⟨rc, hrc, rfl, rfl⟩; exact hrc, fun h => ⟨_, h, rfl, rfl⟩⟩ (fun g rc hrc => by
      have hlt := formatCells_col_lt h17 hrc
      exact readGrid_writeGrid g.rsv true (by omega) (by omega)) g
  rw [cellAt, hmod, reserveFormat, hrsv]
  rfl

/-- The last two sub-steps: the dark module, and the flags of the format cells. -/
theorem cellAt_reserveFormat_darkModule {size : Nat} (h17 : 17 ≤ size) (h256 : size ≤ 256)
    (g : Grids) {r c : Nat} (hc : c < size) :
    cellAt (reserveFormat size (darkModule size g)) r c =
      (if r = size - 8 ∧ c = 8 then some true else (cellAt g r c).1,
        if (r, c) ∈ formatCells size ∨ (r = size - 8 ∧ c = 8) then some true
        else (cellAt g r c).2) := by
  rw [cellAt_reserveFormat h17 h256 _ hc, darkModule, cellAt_stamp _ _ (by omega) (by omega),
    ite_or]
  split <;> rfl

end Sys2Proof.Machine
end

section
/-!
SUPPORT. The alignment patterns (spec/43_matrix.md R156, R157) and the whole matrix MBUILD leaves
(R160).
-/

namespace Sys2Proof.Machine

open Sys2Proof.Claims

/-! ### One pattern -/

/-- A centre far enough from the upper and the left edge. -/
abbrev insideEdge (p : Nat × Nat) : Prop := 2 ≤ p.1 ∧ 2 ≤ p.2

theorem mem_footprint {p : Nat × Nat} (hp : insideEdge p) {r c : Nat} :
    (r, c) ∈ footprint p.1 p.2 ↔ covers p r c := by
  rw [footprint, mem_block]
  omega

theorem alignDark_eq {p : Nat × Nat} (hp : insideEdge p) (d : Nat × Nat) :
    alignDark d.1 d.2 = alignModule p (p.1 - 2 + d.1) (p.2 - 2 + d.2) := by
  rw [Bool.eq_iff_iff]
  simp only [alignDark, alignModule, Bool.or_eq_true, Bool.and_eq_true, beq_iff_eq,
    decide_eq_true_eq]
  omega

theorem cellAt_alignPattern {p : Nat × Nat} (hp : insideEdge p) (hcol : p.2 + 2 < 256) (g : Grids)
    {r c : Nat} (hc : c < 256) :
    cellAt (alignPattern p.1 p.2 g) r c =
      if covers p r c then (some (alignModule p r c), some true) else cellAt g r c := by
  rw [alignPattern]
  refine cellAt_foldl_stamp (row := fun d : Nat × Nat => p.1 - 2 + d.1)
    (col := fun d : Nat × Nat => p.2 - 2 + d.2) (val := fun d : Nat × Nat => alignDark d.1 d.2)
    hc ⟨?_, fun h => ?_⟩ (fun d hd => ?_) ?_ g
  · rintro ⟨d, hd, rfl, rfl⟩
    have hd := mem_block.1 hd
    omega
  · exact ⟨(r + 2 - p.1, c + 2 - p.2), mem_block.2 (by simp only; omega), by simp only; omega⟩
  · have hd := mem_block.1 hd
    omega
  · rintro d - ⟨rfl, rfl⟩
    exact alignDark_eq hp d

/-! ### Which pairs are placed (R156) -/

/-- A pair overlaps exactly when its footprint has a cell that is structural or covered. -/
theorem overlaps_iff {size : Nat} {placed : List (Nat × Nat)} {p : Nat × Nat} (hp : insideEdge p) :
    overlaps size placed p ↔
      ∃ r c, covers p r c ∧ (structural size r c ∨ ∃ q ∈ placed, covers q r c) := by
  constructor
  · rintro (⟨i, hi, j, hj, h⟩ | ⟨q, hq, h⟩)
    · exact ⟨_, _, by omega, .inl h⟩
    · exact ⟨max p.1 q.1 - 2, max p.2 q.2 - 2, by omega, .inr ⟨q, hq, by omega⟩⟩
  · rintro ⟨r, c, hcov, h | ⟨q, hq, h⟩⟩
    · refine .inl ⟨r + 2 - p.1, by omega, c + 2 - p.2, by omega, ?_⟩
      rwa [show p.1 - 2 + (r + 2 - p.1) = r by omega, show p.2 - 2 + (c + 2 - p.2) = c by omega]
    · exact .inr ⟨q, hq, by omega⟩

/-- The grids hold finder, separator and timing patterns and the alignment patterns of the list,
which lie apart, and are light and free elsewhere. -/
structure Patterned (size : Nat) (placed : List (Nat × Nat)) (g : Grids) : Prop where
  apart : ∀ p ∈ placed, ∀ r c, covers p r c → ¬ structural size r c
  structural : ∀ r < size, ∀ c < size, structural size r c →
    cellAt g r c = (some (bareModule size r c), some true)
  covered : ∀ p ∈ placed, ∀ r < size, ∀ c < size, covers p r c →
    cellAt g r c = (some (alignModule p r c), some true)
  free : ∀ r < size, ∀ c < size, ¬ Claims.structural size r c →
    (∀ p ∈ placed, ¬ covers p r c) → cellAt g r c = (some false, some false)

theorem patterned_functionPatterns {size : Nat} (h17 : 17 ≤ size) (h256 : size ≤ 256) (g : Grids) :
    Patterned size [] (functionPatterns size g) where
  apart := by simp
  structural r hr c hc h := by rw [cellAt_functionPatterns h17 h256 g hr hc, if_pos h]
  covered := by simp
  free r hr c hc h _ := by rw [cellAt_functionPatterns h17 h256 g hr hc, if_neg h]

theorem Patterned.readRsv {size : Nat} {placed : List (Nat × Nat)} {g : Grids}
    (h : Patterned size placed g) {r c : Nat} (hr : r < size) (hc : c < size) :
    readRsv g.rsv r c = true ↔ Claims.structural size r c ∨ ∃ p ∈ placed, covers p r c := by
  have hread : ∀ {m b}, cellAt g r c = (m, some b) → Machine.readRsv g.rsv r c = b := fun h =>
    congrArg (fun x : Option Bool × Option Bool => x.2.getD (Config.unwrittenBit .rsv r c)) h
  by_cases hs : Claims.structural size r c
  · simp only [hread (h.structural r hr c hc hs), hs, true_or]
  by_cases hp : ∃ p ∈ placed, covers p r c
  · obtain ⟨p, hp, hcov⟩ := hp
    simp only [hread (h.covered p hp r hr c hc hcov), true_iff]
    exact .inr ⟨p, hp, hcov⟩
  · have hfree := h.free r hr c hc hs fun p hp' hcov => hp ⟨p, hp', hcov⟩
    simp only [hread hfree, hs, hp, or_self, Bool.false_eq_true]

/-- One pair: its pattern is placed when its footprint overlaps nothing. -/
theorem Patterned.tryAlign {size : Nat} (h256 : size ≤ 256) {placed : List (Nat × Nat)} {g : Grids}
    (h : Patterned size placed g) {p : Nat × Nat} (hp : insideEdge p)
    (hrow : p.1 + 2 < size) (hcol : p.2 + 2 < size) :
    Patterned size (if overlaps size placed p then placed else placed ++ [p]) (tryAlign g p) := by
  have hany : (footprint p.1 p.2).any (fun rc => Machine.readRsv g.rsv rc.1 rc.2) = true ↔
      overlaps size placed p := by
    rw [overlaps_iff hp, List.any_eq_true, Prod.exists]
    refine exists_congr fun r => exists_congr fun c => ?_
    rw [mem_footprint hp]
    exact and_congr_right fun hcov => h.readRsv (by omega) (by omega)
  rw [Machine.tryAlign]
  simp only [hany]
  split
  · exact h
  next hover =>
  have hclear : ∀ r c, covers p r c →
      ¬ (Claims.structural size r c ∨ ∃ q ∈ placed, covers q r c) :=
    fun r c hcov hhit => hover ((overlaps_iff hp).2 ⟨r, c, hcov, hhit⟩)
  have hcell : ∀ r c, c < size → ¬ covers p r c →
      cellAt (alignPattern p.1 p.2 g) r c = cellAt g r c := fun r c hc hcov => by
    rw [cellAt_alignPattern hp (by omega) g (by omega), if_neg hcov]
  constructor
  · intro q hq r c hcov hs
    rcases List.mem_append.1 hq with hq | hq
    · exact h.apart q hq r c hcov hs
    · exact hclear r c (List.mem_singleton.1 hq ▸ hcov) (.inl hs)
  · intro r hr c hc hs
    rw [hcell r c hc fun hcov => hclear r c hcov (.inl hs), h.structural r hr c hc hs]
  · intro q hq r hr c hc hcov
    rcases List.mem_append.1 hq with hq | hq
    · rw [hcell r c hc fun hcov' => hclear r c hcov' (.inr ⟨q, hq, hcov⟩),
        h.covered q hq r hr c hc hcov]
    · obtain rfl := List.mem_singleton.1 hq
      rw [cellAt_alignPattern hp (by omega) g (by omega), if_pos hcov]
  · intro r hr c hc hs hnone
    rw [hcell r c hc (hnone p (by simp)),
      h.free r hr c hc hs fun q hq => hnone q (List.mem_append_left _ hq)]

theorem patterned_foldl_tryAlign {size : Nat} (h17 : 17 ≤ size) (h256 : size ≤ 256)
    {pairs : List (Nat × Nat)}
    (hpairs : ∀ p ∈ pairs, insideEdge p ∧ p.1 + 2 < size ∧ p.2 + 2 < size) (g : Grids) :
    Patterned size (placedCentres size pairs) (pairs.foldl tryAlign (functionPatterns size g)) :=
  List.foldl_rel (patterned_functionPatterns h17 h256 g) fun p hp _ _ h =>
    h.tryAlign h256 (hpairs p hp).1 (hpairs p hp).2.1 (hpairs p hp).2.2

/-! ### The whole matrix -/

/-- The coordinates in use, as the claims list them (R28). -/
theorem alignList_eq (s : State) : alignList s =
    (List.range s.alncnt.toNat).map fun k => (s.align[k]?.getD 0#8).toNat := by
  have hlen : (alignList s).length = s.alncnt.toNat := by
    rw [alignList, List.length_map, List.length_take, Vector.length_toList]
    omega
  refine List.ext_getElem (by simp [hlen]) fun k hk _ => ?_
  rw [hlen] at hk
  have h7 : k < 7 := by omega
  simp [alignList, h7]

theorem buildMatrix_eq (s : State) (g : Grids) :
    buildMatrix s.version.toNat (alignList s) g = reserveFormat (sideOf s) (darkModule (sideOf s)
      ((alignPairs s).foldl tryAlign (functionPatterns (sideOf s) g))) := by
  simp only [buildMatrix, alignPairs, ← alignList_eq]
  split <;> rfl

/-- The pairs of an accepted MBUILD keep every footprint inside the matrix (R150). -/
theorem alignPairs_inside {s : State} (h : alignLegal s) {p : Nat × Nat} (hp : p ∈ alignPairs s) :
    insideEdge p ∧ p.1 + 2 < sideOf s ∧ p.2 + 2 < sideOf s := by
  simp only [alignPairs, ← alignList_eq] at hp
  split at hp
  · next hv =>
    obtain ⟨a, ha, hp⟩ := List.mem_flatMap.1 hp
    obtain ⟨b, hb, rfl⟩ := List.mem_map.1 hp
    have ha := alignList_inside h hv a ha
    have hb := alignList_inside h hv b hb
    exact ⟨⟨ha.1, hb.1⟩, ha.2, hb.2⟩
  · cases hp

theorem sideOf_bounds (s : State) : 17 ≤ sideOf s ∧ sideOf s ≤ 256 := by
  simp only [sideOf]
  omega

theorem patterned_of_alignLegal {s : State} (h : alignLegal s) (g : Grids) :
    Patterned (sideOf s) (placedCentres (sideOf s) (alignPairs s))
      ((alignPairs s).foldl tryAlign (functionPatterns (sideOf s) g)) :=
  patterned_foldl_tryAlign (sideOf_bounds s).1 (sideOf_bounds s).2
    (fun _ hp => alignPairs_inside h hp) g

/-- One cell after MBUILD, from what the alignment step left there. -/
theorem readGrid_mbuildEffect (s : State) {r c : Nat} (hc : c < sideOf s) {m v : Option Bool}
    (h : cellAt ((alignPairs s).foldl tryAlign
      (functionPatterns (sideOf s) ⟨s.mod, s.rsv⟩)) r c = (m, v)) :
    readGrid (mbuildEffect s).mod r c = (if r = sideOf s - 8 ∧ c = 8 then some true else m) ∧
      readGrid (mbuildEffect s).rsv r c =
        if (r, c) ∈ formatCells (sideOf s) ∨ (r = sideOf s - 8 ∧ c = 8) then some true else v := by
  obtain ⟨h17, h256⟩ := sideOf_bounds s
  have hcell := cellAt_reserveFormat_darkModule h17 h256
    ((alignPairs s).foldl tryAlign (functionPatterns (sideOf s) ⟨s.mod, s.rsv⟩)) (r := r) hc
  rw [← buildMatrix_eq, h] at hcell
  rw [mbuildEffect_eq]
  generalize buildMatrix s.version.toNat (alignList s) ⟨s.mod, s.rsv⟩ = g at hcell ⊢
  exact ⟨congrArg Prod.fst hcell, congrArg Prod.snd hcell⟩

theorem not_structural_darkModule {size r c : Nat} (h17 : 17 ≤ size) (h : r = size - 8 ∧ c = 8) :
    ¬ structural size r c := by
  omega

theorem bareModule_of_not_structural {size r c : Nat} (h : ¬ structural size r c) :
    bareModule size r c = decide (r = size - 8 ∧ c = 8) := by
  rw [bareModule, if_neg (by omega), if_neg (by omega), if_neg (by omega), if_neg (by omega),
    if_neg (by omega)]

/-- A cell of a placed alignment pattern after MBUILD (R157; log 11). -/
theorem readGrid_mbuildEffect_covered {s : State} (hlegal : alignLegal s) {p : Nat × Nat}
    (hp : p ∈ placedCentres (sideOf s) (alignPairs s)) {r c : Nat} (hr : r < sideOf s)
    (hc : c < sideOf s) (hcov : covers p r c) :
    readGrid (mbuildEffect s).mod r c =
        some (alignModule p r c || decide (r = sideOf s - 8 ∧ c = 8)) ∧
      readGrid (mbuildEffect s).rsv r c = some true := by
  obtain ⟨hmod, hrsv⟩ := readGrid_mbuildEffect s hc
    ((patterned_of_alignLegal hlegal _).covered p hp r hr c hc hcov)
  rw [hmod, hrsv, ite_self]
  refine ⟨?_, rfl⟩
  split
  · next h => rw [decide_eq_true h, Bool.or_true]
  · next h => rw [decide_eq_false h, Bool.or_false]

/-- A cell outside the alignment patterns after MBUILD (R160). -/
theorem readGrid_mbuildEffect_uncovered {s : State} (hlegal : alignLegal s) {r c : Nat}
    (hr : r < sideOf s) (hc : c < sideOf s)
    (hcov : ∀ p ∈ placedCentres (sideOf s) (alignPairs s), ¬ covers p r c) :
    readGrid (mbuildEffect s).mod r c = some (bareModule (sideOf s) r c) ∧
      (readGrid (mbuildEffect s).rsv r c = some true ↔ bareReserved (sideOf s) r c) ∧
      (readGrid (mbuildEffect s).rsv r c).isSome := by
  have hpattern := patterned_of_alignLegal hlegal ⟨s.mod, s.rsv⟩
  have h17 := (sideOf_bounds s).1
  have hformat := mem_formatCells h17 hr hc
  by_cases hs : structural (sideOf s) r c
  · obtain ⟨hmod, hrsv⟩ := readGrid_mbuildEffect s hc (hpattern.structural r hr c hc hs)
    rw [hmod, hrsv, if_neg fun hdark => not_structural_darkModule h17 hdark hs, ite_self]
    exact ⟨rfl, iff_of_true rfl (.inl hs), rfl⟩
  · obtain ⟨hmod, hrsv⟩ := readGrid_mbuildEffect s hc (hpattern.free r hr c hc hs hcov)
    have hbare : (r, c) ∈ formatCells (sideOf s) ∨ (r = sideOf s - 8 ∧ c = 8) ↔
        bareReserved (sideOf s) r c := by
      simp only [bareReserved, hs, hformat, false_or, or_comm]
    rw [hmod, hrsv, bareModule_of_not_structural hs]
    refine ⟨?_, ?_, ?_⟩
    · split <;> simp [*]
    · split
      · next h => exact iff_of_true rfl (hbare.1 h)
      · next h => exact iff_of_false (by simp) (mt hbare.2 h)
    · split <;> rfl

/-- The structural cells and the dark module after MBUILD: no alignment pattern reaches the former,
and the latter is dark under one (R158, R161). -/
theorem readGrid_mbuildEffect_structural {s : State} (hlegal : alignLegal s) {r c : Nat}
    (hr : r < sideOf s) (hc : c < sideOf s)
    (h : structural (sideOf s) r c ∨ (r = sideOf s - 8 ∧ c = 8)) :
    readGrid (mbuildEffect s).mod r c = some (bareModule (sideOf s) r c) ∧
      readGrid (mbuildEffect s).rsv r c = some true := by
  by_cases hcov : ∃ p ∈ placedCentres (sideOf s) (alignPairs s), covers p r c
  · obtain ⟨p, hp, hcov⟩ := hcov
    have hs := (patterned_of_alignLegal hlegal ⟨s.mod, s.rsv⟩).apart p hp r c hcov
    obtain ⟨hmod, hrsv⟩ := readGrid_mbuildEffect_covered hlegal hp hr hc hcov
    have hdark := h.resolve_left hs
    rw [hmod, bareModule_of_not_structural hs, decide_eq_true hdark, Bool.or_true]
    exact ⟨rfl, hrsv⟩
  · obtain ⟨hmod, hrsv, -⟩ := readGrid_mbuildEffect_uncovered hlegal hr hc fun p hp hp' =>
      hcov ⟨p, hp, hp'⟩
    exact ⟨hmod, hrsv.2 (h.imp_right .inl)⟩

theorem readGrid_mbuildEffect_format {s : State} (hlegal : alignLegal s) {r c : Nat}
    (hr : r < sideOf s) (hc : c < sideOf s) (h : formatReserved (sideOf s) r c) :
    readGrid (mbuildEffect s).rsv r c = some true := by
  by_cases hcov : ∃ p ∈ placedCentres (sideOf s) (alignPairs s), covers p r c
  · obtain ⟨p, hp, hcov⟩ := hcov
    exact (readGrid_mbuildEffect_covered hlegal hp hr hc hcov).2
  · exact (readGrid_mbuildEffect_uncovered hlegal hr hc fun p hp hp' =>
      hcov ⟨p, hp, hp'⟩).2.1.2 (.inr (.inr h))

/-- A free cell after MBUILD lies outside every pattern, and is light (R160). -/
theorem readGrid_mbuildEffect_free {s : State} (hlegal : alignLegal s) {r c : Nat}
    (hr : r < sideOf s) (hc : c < sideOf s) (h : readGrid (mbuildEffect s).rsv r c = some false) :
    readGrid (mbuildEffect s).mod r c = some false := by
  have hcov : ∀ p ∈ placedCentres (sideOf s) (alignPairs s), ¬ covers p r c := fun p hp hcov => by
    simp [(readGrid_mbuildEffect_covered hlegal hp hr hc hcov).2] at h
  obtain ⟨hmod, hrsv, -⟩ := readGrid_mbuildEffect_uncovered hlegal hr hc hcov
  have hbare : ¬ bareReserved (sideOf s) r c := fun hb => by simp [hrsv.2 hb] at h
  rw [hmod, bareModule_of_not_structural fun hs => hbare (.inl hs),
    decide_eq_false fun hdark => hbare (.inr (.inl hdark))]

end Sys2Proof.Machine
end

section
/-!
SUPPORT. The MBUILD command (spec/43_matrix.md R150, R160, R161).
-/

namespace Sys2Proof.Machine

open Sys2Proof.Claims

theorem exec_mbuild {s : State} (hverv : s.status.verv = true) (hlegal : alignLegal s) :
    exec .mbuild s = .next { mbuildEffect s with responses := answered s 0#16 } :=
  exec_succeeds ⟨ne_false_of_eq_true hverv, not_not.2 hlegal, id⟩

theorem msize_mbuildEffect (s : State) : (mbuildEffect s).msize = BitVec.ofNat 6 (sideOf s) := rfl

/-- MSIZE holds the side of a legal version in full. -/
theorem toNat_msize_mbuildEffect {s : State} (hv : s.version.toNat ≤ 10) :
    (mbuildEffect s).msize.toNat = sideOf s := by
  rw [msize_mbuildEffect, BitVec.toNat_ofNat, Nat.mod_eq_of_lt]
  simp only [sideOf]
  omega

/-- MBUILD writes no cell outside the matrix (log 5). -/
theorem readGrid_mbuildEffect_outside {s : State} (hlegal : alignLegal s) {r c : Nat}
    (hc : c < 256) (hout : sideOf s ≤ r ∨ sideOf s ≤ c) :
    readGrid (mbuildEffect s).mod r c = readGrid s.mod r c ∧
      readGrid (mbuildEffect s).rsv r c = readGrid s.rsv r c := by
  have hkept := writeKept_outside (sideOf_bounds s).2 hc hout
  have hm := (hkept (readGrid s.mod r c)).writeStable
  have hr := (hkept (readGrid s.rsv r c)).writeStable
  obtain ⟨hmod, hrsv⟩ := mbuildEffect_related (s := s) (s' := s) rfl rfl hlegal hm hr
    (by rintro _ _ ⟨-, rfl⟩ _ _ _ _; rfl) (allocate_related hm hr ⟨⟨rfl, rfl⟩, ⟨rfl, rfl⟩⟩)
  exact ⟨hmod.1, hrsv.1⟩

/-- Settles O40: MBUILD checks VERV and then the coordinates; its writes stay inside the matrix. -/
theorem mbuildWritesRegisters : Obligations.MbuildWritesRegisters := by
  refine ⟨codedZ_of_rowOf rfl, fun s => ⟨fun hverv => exec_fails_seq hverv,
    fun hverv hlegal => exec_fails_arg (ne_false_of_eq_true hverv) hlegal,
    fun hverv hlegal => ⟨_, exec_mbuild hverv hlegal, ?_, fun r c hc hout => ?_, ?_⟩⟩⟩
  · exact toNat_msize_mbuildEffect
  · dsimp only
    exact readGrid_mbuildEffect_outside hlegal hc hout
  · rw [mbuildEffect_frame]
    generalize (mbuildEffect s).mod = mod, (mbuildEffect s).rsv = rsv
    rfl

/-- Settles O42: one cell at a time, from the matrix the alignment step leaves. -/
theorem mbuildWholeMatrix : Obligations.MbuildWholeMatrix := by
  intro s hv hlegal
  refine ⟨_, exec_mbuild hv.1 hlegal, fun r hr c hc => ?_⟩
  dsimp only
  exact ⟨fun p hp => readGrid_mbuildEffect_covered hlegal hp hr hc,
    readGrid_mbuildEffect_uncovered hlegal hr hc⟩

/-- Settles O41: the alignment patterns miss the structural cells and only add reserved ones. -/
theorem mbuildStructuralPatterns : Obligations.MbuildStructuralPatterns := by
  intro s hv hlegal
  refine ⟨_, exec_mbuild hv.1 hlegal, fun r hr c hc => ?_⟩
  dsimp only
  obtain ⟨hmod, hrsv⟩ := filled_mbuildEffect hlegal
  exact ⟨hmod r hr c hc, hrsv r hr c hc, readGrid_mbuildEffect_free hlegal hr hc,
    readGrid_mbuildEffect_structural hlegal hr hc, readGrid_mbuildEffect_format hlegal hr hc⟩

/-! ### What MBUILD reads (R161) -/

theorem alignList_congr {s s' : State} (hcnt : s.alncnt = s'.alncnt)
    (halign : ∀ k : Fin 7, k.val < s.alncnt.toNat → s.align[k] = s'.align[k]) :
    alignList s = alignList s' := by
  rw [alignList_eq, alignList_eq, ← hcnt]
  refine List.map_congr_left fun k hk => ?_
  have hk := List.mem_range.1 hk
  have h7 : k < 7 := by omega
  have hread : s.align[k] = s'.align[k] := halign ⟨k, h7⟩ hk
  simp only [h7, getElem?_pos, hread]

theorem alignLegal_congr {s s' : State} (hversion : s.version = s'.version)
    (hlist : 2 ≤ s.version.toNat → alignList s = alignList s') : alignLegal s ↔ alignLegal s' := by
  rw [← not_iff_not, ← alignOutOfRange_iff, ← alignOutOfRange_iff, alignOutOfRange,
    alignOutOfRange, ← hversion, Bool.and_eq_true, Bool.and_eq_true]
  refine and_congr_right fun hv => ?_
  rw [hlist (Nat.le_of_ble_eq_true hv)]

/-- At version 1 the builder does not look at the list (R161). -/
theorem buildMatrix_congr_list {version : Nat} {list list' : List Nat}
    (h : 2 ≤ version → list = list') (g : Grids) :
    buildMatrix version list g = buildMatrix version list' g := by
  by_cases hv : 2 ≤ version
  · rw [h hv]
  · simp only [buildMatrix, if_neg hv]

/-- MBUILD's matrix depends on the version and the coordinates in use, and at version 1 on the
version alone (R161). -/
theorem mbuildEffect_agreeOn {s s' : State} (hversion : s.version = s'.version)
    (hlist : 2 ≤ s.version.toNat → alignList s = alignList s') (hlegal : alignLegal s) :
    AgreeOn (sideOf s) (mbuildEffect s).mod (mbuildEffect s').mod ∧
      AgreeOn (sideOf s) (mbuildEffect s).rsv (mbuildEffect s').rsv := by
  have hrel := buildMatrix_related (writeStable_agreeOn _ (sideOf s))
    (writeStable_agreeOn _ (sideOf s)) (fun _ _ hg _ hr _ hc => hg.readRsv hr hc)
    (alignList_inside hlegal) (allocate_agreeOn (sideOf s) ⟨s.mod, s.rsv⟩ ⟨s'.mod, s'.rsv⟩)
  rw [mbuildEffect_eq, mbuildEffect_eq, ← hversion, ← buildMatrix_congr_list hlist ⟨s'.mod, s'.rsv⟩]
  dsimp only [withMatrix]
  exact ⟨hrel.mod, hrel.rsv⟩

theorem mbuild_inversion {s t : State} (hverv : s.status.verv = true) (hlegal : alignLegal s)
    (h : exec .mbuild s = .next t) : t = { mbuildEffect s with responses := answered s 0#16 } :=
  (Host.Outcome.next.inj ((exec_mbuild hverv hlegal).symm.trans h)).symm

/-- Settles O43: both states pass the checks, and their two matrices agree cell by cell. -/
theorem mbuildDependsOnItsInputs : Obligations.MbuildDependsOnItsInputs := by
  intro s s' t t' hversion hinputs hverv hverv' hlegal h h'
  have hlist : 2 ≤ s.version.toNat → alignList s = alignList s' := fun hv =>
    alignList_congr (hinputs hv).1 (hinputs hv).2
  obtain rfl := mbuild_inversion hverv hlegal h
  obtain rfl := mbuild_inversion hverv' ((alignLegal_congr hversion hlist).1 hlegal) h'
  obtain ⟨hmod, hrsv⟩ := mbuildEffect_agreeOn hversion hlist hlegal
  dsimp only
  refine ⟨?_, fun r hr c hc => ⟨hmod r hr c hc, hrsv r hr c hc⟩⟩
  rw [msize_mbuildEffect, msize_mbuildEffect, sideOf, sideOf, hversion]

end Sys2Proof.Machine
end

section
/-!
SUPPORT. The structural patterns through the later stages (spec/43_matrix.md R161): PLACE and MASK
leave reserved cells alone (R173, R185), and FMTWR writes none of the structural ones (R194).
-/

namespace Sys2Proof.Machine

open Sys2Proof.Claims

/-! ### Reserved cells -/

theorem Traversal.advance_mod (size : Nat) (t : Traversal) : (t.advance size).mod = t.mod := by
  unfold Traversal.advance
  split_ifs <;> rfl

theorem Traversal.advance_right_le (size : Nat) (t : Traversal) :
    (t.advance size).right ≤ t.right := by
  unfold Traversal.advance
  split_ifs
  · exact Nat.le_refl _
  · exact Nat.le_refl _
  · exact nextRight_le _
  · exact Nat.le_refl _

/-- A step of the placer passes over a reserved cell and does not widen the columns to come. -/
theorem placeStep_reserved {s : State} {size r c : Nat} (hc : c < 256)
    (hrsv : readRsv s.rsv r c = true) {t : Traversal} (hright : t.right < 256) :
    readGrid (placeStep s size t).mod r c = readGrid t.mod r c ∧
      (placeStep s size t).right < 256 := by
  have hcol : t.col < 256 := (Nat.sub_le _ _).trans_lt hright
  unfold placeStep
  rw [Traversal.advance_mod]
  refine ⟨?_, (Traversal.advance_right_le _ _).trans_lt ?_⟩
  · split
    · rfl
    · next hfree =>
      rw [readGrid_writeGrid _ _ hcol hc, if_neg]
      rintro ⟨rfl, rfl⟩
      exact hfree hrsv
  · split <;> exact hright

theorem placeRun_reserved {s : State} {size r c : Nat} (hc : c < 256)
    (hrsv : readRsv s.rsv r c = true) (fuel : Nat) {t : Traversal} (hright : t.right < 256) :
    readGrid (placeRun s size fuel t).mod r c = readGrid t.mod r c := by
  induction fuel generalizing t with
  | zero => rfl
  | succ fuel ih =>
    obtain ⟨hmod, hright'⟩ := placeStep_reserved (size := size) hc hrsv hright
    rw [placeRun]
    split
    · rfl
    · rw [ih hright', hmod]

/-- PLACE writes no reserved cell (R173). -/
theorem placeEffect_reserved {s : State} {r c : Nat} (hc : c < 256)
    (hrsv : readRsv s.rsv r c = true) :
    readGrid (placeEffect s).mod r c = readGrid s.mod r c :=
  placeRun_reserved hc hrsv _ (show s.msize.toNat - 1 < 256 by omega)

/-- MASK writes no reserved cell (R185). -/
theorem maskEffect_reserved {s : State} {r c : Nat} (hc : c < 256)
    (hrsv : readRsv s.rsv r c = true) :
    readGrid (maskEffect s).mod r c = readGrid s.mod r c := by
  refine foldl_keeps (P := fun g => readGrid g r c = readGrid s.mod r c) rfl fun g hg rc hrc => ?_
  have hcol := (mem_matrix.1 hrc).2
  rw [maskCell]
  split
  · next hfree =>
    rw [readGrid_writeGrid _ _ (by omega) hc, if_neg, hg]
    rintro ⟨rfl, rfl⟩
    simp [hrsv] at hfree
  · exact hg

/-! ### The strips -/

theorem readGrid_writeStrip_other (w : BitVec 15) {strip : List (Nat × Nat)} (g : Grid) {r c : Nat}
    (hc : c < 256) (hcol : ∀ rc ∈ strip, rc.2 < 256) (h : (r, c) ∉ strip) :
    readGrid (writeStrip w strip g) r c = readGrid g r c := by
  refine foldl_keeps (P := fun g' => readGrid g' r c = readGrid g r c) rfl fun g' hg' p hp => ?_
  have hp := List.fst_mem_of_mem_zipIdx hp
  rw [readGrid_writeGrid _ _ (hcol _ hp) hc, if_neg, hg']
  rintro ⟨rfl, rfl⟩
  exact h hp

/-- FMTWR writes no cell outside the strips (R194). -/
theorem fmtwrEffect_other {s : State} {r c : Nat} (hc : c < 256)
    (hH : (r, c) ∉ stripH s.msize.toNat) (hV : (r, c) ∉ stripV s.msize.toNat) :
    readGrid (fmtwrEffect s).mod r c = readGrid s.mod r c := by
  have hsize : s.msize.toNat ≤ 256 := by omega
  simp only [fmtwrEffect]
  rw [readGrid_writeStrip_other _ _ hc (fun _ h => (stripV_lt (by omega) hsize h).2) hV,
    readGrid_writeStrip_other _ _ hc (fun _ h => (stripH_lt (by omega) hsize h).2) hH]

/-- The strips hold no structural cell and not the dark module (R195, R196). -/
theorem not_mem_strips {size r c : Nat} (h17 : 17 ≤ size)
    (h : structural size r c ∨ (r = size - 8 ∧ c = 8)) :
    (r, c) ∉ stripH size ∧ (r, c) ∉ stripV size := by
  simp only [stripH, stripV, List.mem_map, List.mem_cons, List.not_mem_nil, or_false,
    Prod.mk.injEq]
  constructor
  · rintro ⟨k, hk, rfl, rfl⟩
    omega
  · rintro ⟨k, hk, rfl, rfl⟩
    omega

/-! ### The invariant -/

/-- The patterns stay in place when the matrix is the same but for modules that are not
structural. -/
theorem structureBuilt_of_mod {s t : State} (h : structureBuilt s)
    (hmatv : t.status.matv = s.status.matv) (hmsize : t.msize = s.msize) (hrsv : t.rsv = s.rsv)
    (hmod : s.status.matv = true → ∀ r < s.msize.toNat, ∀ c < s.msize.toNat,
      structural s.msize.toNat r c ∨ (r = s.msize.toNat - 8 ∧ c = 8) →
        readGrid s.rsv r c = some true → readGrid t.mod r c = readGrid s.mod r c) :
    structureBuilt t := by
  intro hv r hr c hc
  rw [hmatv] at hv
  rw [hmsize] at hr hc ⊢
  rw [hrsv]
  obtain ⟨hpattern, hformat⟩ := h hv r hr c hc
  refine ⟨fun hs => ?_, hformat⟩
  rw [hmod hv r hr c hc hs (hpattern hs).2]
  exact hpattern hs

theorem structureBuilt_of_frame {s t : State} (h : structureBuilt s)
    (hmatv : t.status.matv = s.status.matv) (hmsize : t.msize = s.msize) (hmod : t.mod = s.mod)
    (hrsv : t.rsv = s.rsv) : structureBuilt t :=
  structureBuilt_of_mod h hmatv hmsize hrsv fun _ _ _ _ _ _ _ => by rw [hmod]

theorem coreOnly_structureBuilt : CoreOnly structureBuilt :=
  ⟨fun _ h => h, fun _ _ h => h, fun _ _ h => h⟩

/-- MBUILD puts the patterns in place (R161). -/
theorem structureBuilt_mbuildEffect {s : State} (hlegal : alignLegal s)
    (hv : s.version.toNat ≤ 10) : structureBuilt (mbuildEffect s) := by
  intro _ r hr c hc
  rw [toNat_msize_mbuildEffect hv] at hr hc ⊢
  exact ⟨readGrid_mbuildEffect_structural hlegal hr hc, readGrid_mbuildEffect_format hlegal hr hc⟩

theorem readRsv_of_readGrid {g : Grid} {r c : Nat} {b : Bool} (h : readGrid g r c = some b) :
    readRsv g r c = b := by
  rw [readRsv, h, Option.getD_some]

theorem structureBuilt_placeEffect {s : State} (h : structureBuilt s) :
    structureBuilt (placeEffect s) :=
  structureBuilt_of_mod h rfl rfl rfl fun _ _ _ _ _ _ hrsv =>
    placeEffect_reserved (by omega) (readRsv_of_readGrid hrsv)

theorem structureBuilt_maskEffect {s : State} (h : structureBuilt s) :
    structureBuilt (maskEffect s) :=
  structureBuilt_of_mod h rfl rfl rfl fun _ _ _ _ _ _ hrsv =>
    maskEffect_reserved (by omega) (readRsv_of_readGrid hrsv)

theorem structureBuilt_fmtwrEffect {s : State} (h : structureBuilt s) (h17 : 17 ≤ s.msize.toNat) :
    structureBuilt (fmtwrEffect s) :=
  structureBuilt_of_mod h rfl rfl rfl fun _ _ _ _ _ hs _ =>
    fmtwrEffect_other (by omega) (not_mem_strips h17 hs).1 (not_mem_strips h17 hs).2

theorem structureBuilt_effectOf {i : Instr} {s : State} (hi : ∀ n, i ≠ .encode n)
    (hacc : Accepted i s) (hr : s.RegistersLegal) (hf : s.FlagsConsistent)
    (h : structureBuilt s) : structureBuilt (effectOf i s) := by
  cases i with
  | encode n => exact absurd rfl (hi n)
  | sreset => exact Bool.noConfusion
  | rsenc =>
    rw [effectOf, rsencEffect_frame]
    exact structureBuilt_of_frame h rfl rfl rfl rfl
  | mbuild => exact structureBuilt_mbuildEffect (not_not.1 hacc.arg) hr.version
  | place => exact structureBuilt_placeEffect h
  | mask => exact structureBuilt_maskEffect h
  | fmtwr =>
    have hsize := msize_legal hr hf (accepted_fmtwr hacc).1
    exact structureBuilt_fmtwrEffect h (by omega)
  | _ => exact structureBuilt_of_frame h rfl rfl rfl rfl

/-- Settles O58: MBUILD puts the patterns in place, PLACE and MASK pass over reserved cells, and the
strips FMTWR writes hold none of them. -/
theorem stepKeepsStructure : Obligations.StepKeepsStructure := fun _ _ hr hf hs h =>
  step_keeps_of_legal coreOnly_structureBuilt (fun _ => Bool.noConfusion)
    (fun _ _ hi hacc => structureBuilt_effectOf hi hacc) hr hf hs h

/-! ### ENCODE -/

theorem exec_encode {n : Byte} {s : State} (h : encodeReady n s) :
    exec (.encode n) s = .next { encodeEffect n s with responses := answered s 0#16 } := by
  obtain ⟨htblv, hverv, heclv, hecv, hn, hlegal, hcap⟩ := h
  refine exec_succeeds ⟨?_, ?_, Nat.not_lt.2 hcap⟩
  · simp only [seqWhen, htblv, hverv, heclv, hecv, Bool.true_eq_false, Bool.false_eq_true, or_self,
      not_false_eq_true]
  · exact not_or.2 ⟨mt (byte_toNat_eq_zero_iff n).1 hn, not_not.2 hlegal⟩

theorem status_matv_encodeEffect (n : Byte) (s : State) :
    (encodeEffect n s).status.matv = true := by
  obtain ⟨_, _, _, _, _, _, hframe⟩ := encodeEffect_frame n s
  rw [hframe]

theorem toNat_msize_encodeEffect (n : Byte) {s : State} (hv : s.version.toNat ≤ 10) :
    (encodeEffect n s).msize.toNat = sideOf s := by
  obtain ⟨_, _, _, _, _, _, hframe⟩ := encodeEffect_frame n s
  rw [hframe]
  exact toNat_msize_mbuildEffect hv

/-- ENCODE's last four stages, from a state MBUILD accepts (R205). -/
theorem structureBuilt_encodeEffect {n : Byte} {s : State} (hready : encodeReady n s)
    (hv : s.version.toNat ≤ 10) : structureBuilt (encodeEffect n s) := by
  have hlegal : alignLegal (rsencEffect (rsgenEffect n s)) :=
    not_not.1 (accepted_mbuild_of_ready hready).arg
  have hversion : (rsencEffect (rsgenEffect n s)).version = s.version := by
    rw [rsencEffect_frame]
    rfl
  rw [encodeEffect]
  generalize rsencEffect (rsgenEffect n s) = t at hlegal hversion ⊢
  rw [← hversion] at hv
  refine structureBuilt_fmtwrEffect (structureBuilt_maskEffect (structureBuilt_placeEffect
    (structureBuilt_mbuildEffect hlegal hv))) ?_
  change 17 ≤ (mbuildEffect t).msize.toNat
  rw [toNat_msize_mbuildEffect hv]
  exact (sideOf_bounds t).1

/-- Settles O55: the invariant of O58 at the end of ENCODE's stages. -/
theorem encodeKeepsStructure : Obligations.EncodeKeepsStructure := by
  intro n s hready hv
  obtain ⟨-, -, hle⟩ := hv
  have hbuilt := structureBuilt_encodeEffect hready hle (status_matv_encodeEffect n s)
  rw [toNat_msize_encodeEffect n hle] at hbuilt
  refine ⟨_, exec_encode hready, fun r hr c hc hs => ?_⟩
  dsimp only
  exact (hbuilt r hr c hc).1 (.inl hs)

end Sys2Proof.Machine
end

section
/-!
SUPPORT. The traversal machine of the placer (spec/44_place.md R171, R172, R174): the cells it
visits from one state to another, put together row by row and lane by lane.
-/

namespace Sys2Proof.Machine

open Sys2Proof.Claims

/-! ### Walks -/

/-- The cell a traversal stands at (R173). -/
def Traversal.cell (size : Nat) (t : Traversal) : Nat × Nat := (t.row size, t.col)

/-- From `t` the machine visits the cells `l`, not done before any of them, and comes to `u`. -/
inductive Walks (size : Nat) : Traversal → List (Nat × Nat) → Traversal → Prop
  | nil (t : Traversal) : Walks size t [] t
  | cons {t u : Traversal} {l : List (Nat × Nat)} :
      t.done = false → Walks size (t.advance size) l u → Walks size t (t.cell size :: l) u

theorem Walks.append {size : Nat} {t u v : Traversal} {l l' : List (Nat × Nat)}
    (h : Walks size t l u) (h' : Walks size u l' v) : Walks size t (l ++ l') v := by
  induction h with
  | nil => exact h'
  | cons hdone _ ih => exact .cons hdone (ih h')

theorem Walks.visited {size : Nat} {t u : Traversal} {l : List (Nat × Nat)}
    (h : Walks size t l u) :
    (List.range l.length).map (fun n => ((Traversal.advance size)^[n] t).cell size) = l := by
  induction h with
  | nil => rfl
  | cons _ _ ih =>
    rw [List.length_cons, List.range_succ_eq_map, List.map_cons, List.map_map]
    exact congrArg (_ :: ·) ih

theorem Walks.undone {size : Nat} {t u : Traversal} {l : List (Nat × Nat)}
    (h : Walks size t l u) {n : Nat} (hn : n < l.length) :
    ((Traversal.advance size)^[n] t).done = false := by
  induction h generalizing n with
  | nil => exact absurd hn (Nat.not_lt_zero n)
  | cons hdone _ ih =>
    cases n with
    | zero => exact hdone
    | succ n => exact ih (Nat.lt_of_succ_lt_succ hn)

theorem Walks.last {size : Nat} {t u : Traversal} {l : List (Nat × Nat)}
    (h : Walks size t l u) : (Traversal.advance size)^[l.length] t = u := by
  induction h with
  | nil => rfl
  | cons _ _ ih => exact ih

/-! ### One lane -/

/-- The machine at the right cell of a row of a lane, `vert` rows of it finished. -/
def laneAt (right : Nat) (up : Bool) (vert : Nat) : Traversal :=
  { right, vert, j := 0, up, k := 0, mod := [], done := false }

/-- Where the machine is when a lane is finished: the next lane, in the other direction, or done
(R174). -/
def laneEnd (right : Nat) (up : Bool) : Traversal :=
  if right = 1 then { laneAt right (!up) 0 with done := true }
  else laneAt (nextRight right) (!up) 0

/-- The two cells of a row, right cell first (R173). -/
def rowCells (size right : Nat) (up : Bool) (vert : Nat) : List (Nat × Nat) :=
  [((laneAt right up vert).row size, right), ((laneAt right up vert).row size, right - 1)]

theorem laneCells_eq (size right : Nat) (up : Bool) :
    laneCells size right up = (List.range size).flatMap (rowCells size right up) := by
  cases up with
  | false => rfl
  | true =>
    have hrows : (List.range size).reverse = (List.range size).map (size - 1 - ·) :=
      List.ext_getElem (by simp) fun i _ _ => by simp
    rw [laneCells, if_pos rfl, hrows, List.flatMap_map]
    rfl

/-- A row takes two advances, to the next row or to the end of the lane. -/
theorem walks_row (size right : Nat) (up : Bool) (vert : Nat) :
    Walks size (laneAt right up vert) (rowCells size right up vert)
      (if vert + 1 = size then laneEnd right up else laneAt right up (vert + 1)) := by
  have hnext : ((laneAt right up vert).advance size).advance size =
      if vert + 1 = size then laneEnd right up else laneAt right up (vert + 1) := by
    simp only [Traversal.advance, laneEnd, laneAt, if_true, if_neg Nat.one_ne_zero]
  rw [← hnext]
  exact .cons rfl (.cons rfl (.nil _))

theorem walks_rows {size : Nat} (right : Nat) (up : Bool) (rows : Nat) {vert : Nat}
    (hsize : vert + rows + 1 = size) :
    Walks size (laneAt right up vert)
      ((List.range' vert (rows + 1)).flatMap (rowCells size right up)) (laneEnd right up) := by
  induction rows generalizing vert with
  | zero =>
    have hrow := walks_row size right up vert
    rw [if_pos hsize] at hrow
    simpa using hrow
  | succ rows ih =>
    have hrow := walks_row size right up vert
    rw [if_neg (by omega)] at hrow
    rw [List.range'_succ, List.flatMap_cons]
    exact hrow.append (ih (by omega))

theorem walks_lane {size : Nat} (hsize : 0 < size) (right : Nat) (up : Bool) :
    Walks size (laneAt right up 0) (laneCells size right up) (laneEnd right up) := by
  obtain ⟨rows, rfl⟩ := Nat.exists_eq_add_one.2 hsize
  rw [laneCells_eq, List.range_eq_range']
  exact walks_rows right up rows (by omega)

/-! ### The lanes in order -/

/-- Lane `b` follows lane `a` (R171). -/
def LaneAfter (a b : Nat) : Prop := a ≠ 1 ∧ nextRight a = b

theorem walks_lanes {size : Nat} (hsize : 0 < size) {rights : List Nat}
    (hchain : rights.IsChain LaneAfter) (hlast : rights.getLast? = some 1) {right : Nat}
    (hhead : rights.head? = some right) (n : Nat) :
    ∃ u, u.done = true ∧ Walks size (laneAt right (n % 2 == 0) 0)
      ((rights.zipIdx n).flatMap fun p => laneCells size p.1 (p.2 % 2 == 0)) u := by
  induction rights generalizing right n with
  | nil => exact nomatch hhead
  | cons a rest ih =>
    obtain rfl : a = right := Option.some.inj hhead
    have hlane := walks_lane hsize a (n % 2 == 0)
    rw [List.zipIdx_cons, List.flatMap_cons]
    cases rest with
    | nil =>
      obtain rfl : a = 1 := Option.some.inj hlast
      exact ⟨_, rfl, hlane.append (.nil _)⟩
    | cons b rest =>
      obtain ⟨⟨hne, hnext⟩, hchain⟩ := List.isChain_cons_cons.1 hchain
      have hturn : (!(n % 2 == 0)) = ((n + 1) % 2 == 0) := by
        rcases Nat.mod_two_eq_zero_or_one n with h | h <;> simp [Nat.add_mod, h]
      rw [laneEnd, if_neg hne, hnext, hturn] at hlane
      obtain ⟨u, hdone, hrest⟩ := ih hchain hlast rfl (n + 1)
      exact ⟨u, hdone, hlane.append hrest⟩

/-- The shape of a legal side: `m` lanes right of column 6 and seven columns more (R171). -/
theorem exists_lanes_of_legalSize {size : Nat} (h : legalSize size) :
    ∃ m, 0 < m ∧ size = 2 * m + 7 := by
  obtain ⟨v, -, -, rfl⟩ := h
  exact ⟨2 * v + 5, by omega, by simp only [Config.SIZE]; omega⟩

section
variable {size m : Nat} (hm : 0 < m) (hsize : size = 2 * m + 7)

include hsize in
theorem laneRights_eq :
    laneRights size = (List.range m).map (fun i => 2 * (m - i) + 6) ++ [5, 3, 1] := by
  have hlanes : (size - 7) / 2 = m := by omega
  rw [laneRights, hlanes]
  congr 1
  refine List.map_congr_left fun i hi => ?_
  have hi := List.mem_range.1 hi
  omega

include hm hsize in
theorem isChain_laneRights : (laneRights size).IsChain LaneAfter := by
  rw [laneRights_eq hsize]
  refine List.isChain_append.2 ⟨?_, by simp [LaneAfter, nextRight], ?_⟩
  · refine (List.isChain_map _).2 ((List.isChain_range _ _).2 fun i hi => ?_)
    simp only [LaneAfter, nextRight]
    split <;> omega
  · obtain ⟨m, rfl⟩ := Nat.exists_eq_add_one.2 hm
    simp [List.range_succ, LaneAfter, nextRight]

include hm hsize in
/-- The machine walks the lanes in order and is then done (R171, R174). -/
theorem walks_laneOrder :
    ∃ u, u.done = true ∧ Walks size (Traversal.start size []) (laneOrder size) u := by
  refine walks_lanes (by omega) (isChain_laneRights hm hsize) ?_ ?_ 0
  · rw [laneRights_eq hsize]
    simp
  · obtain ⟨m, rfl⟩ := Nat.exists_eq_add_one.2 hm
    rw [laneRights_eq hsize, List.range_succ_eq_map]
    simp; omega

/-! ### Every cell outside column 6 once -/

include hsize in
theorem exists_mem_laneRights_iff {c : Nat} :
    (∃ right ∈ laneRights size, c = right ∨ c = right - 1) ↔ c < size ∧ c ≠ 6 := by
  simp only [laneRights_eq hsize, List.mem_append, List.mem_map, List.mem_range, List.mem_cons,
    List.not_mem_nil, or_false]
  constructor
  · rintro ⟨right, ⟨i, hi, rfl⟩ | hright, hc⟩ <;> omega
  · rintro ⟨hc, h6⟩
    by_cases h7 : 7 ≤ c
    · exact ⟨_, .inl ⟨m + 3 - (c + 1) / 2, by omega, rfl⟩, by omega⟩
    · exact ⟨2 * (c / 2) + 1, .inr (by omega), by omega⟩

end

theorem mem_laneCells {size right : Nat} {up : Bool} {r c : Nat} :
    (r, c) ∈ laneCells size right up ↔ r < size ∧ (c = right ∨ c = right - 1) := by
  cases up <;> simp [laneCells, ← and_or_left]

theorem mem_laneOrder {size : Nat} (h : legalSize size) {r c : Nat} :
    (r, c) ∈ laneOrder size ↔ r < size ∧ c < size ∧ c ≠ 6 := by
  obtain ⟨m, -, hsize⟩ := exists_lanes_of_legalSize h
  rw [← exists_mem_laneRights_iff hsize, laneOrder, List.mem_flatMap]
  simp only [mem_laneCells]
  constructor
  · rintro ⟨p, hp, hr, hc⟩
    exact ⟨hr, p.1, List.fst_mem_of_mem_zipIdx hp, hc⟩
  · rintro ⟨hr, right, hright, hc⟩
    rw [← List.zipIdx_map_fst 0 (laneRights size)] at hright
    obtain ⟨p, hp, rfl⟩ := List.mem_map.1 hright
    exact ⟨p, hp, hr, hc⟩

theorem length_laneCells (size right : Nat) (up : Bool) :
    (laneCells size right up).length = 2 * size := by
  simp [laneCells_eq, rowCells, List.length_flatMap, mul_comm]

theorem length_laneOrder {size : Nat} (h : legalSize size) :
    (laneOrder size).length = size * (size - 1) := by
  obtain ⟨m, -, rfl⟩ := exists_lanes_of_legalSize h
  rw [laneOrder, List.length_flatMap]
  simp only [length_laneCells]
  rw [List.map_const', List.length_zipIdx, List.sum_replicate, laneRights_eq rfl]
  simp only [List.length_append, List.length_map, List.length_range, List.length_cons,
    List.length_nil, smul_eq_mul, Nat.add_succ_sub_one]
  ring

/-- The lanes hold as many cells as the matrix has outside column 6, and each of those: so none
twice. -/
theorem nodup_laneOrder {size : Nat} (h : legalSize size) : (laneOrder size).Nodup := by
  have hcells : (laneOrder size).toFinset = Finset.range size ×ˢ (Finset.range size).erase 6 := by
    ext ⟨r, c⟩
    rw [List.mem_toFinset, mem_laneOrder h]
    simp [and_comm]
  have h6 : 6 ∈ Finset.range size := by
    obtain ⟨m, -, rfl⟩ := exists_lanes_of_legalSize h
    simp
  refine Multiset.toFinset_card_eq_card_iff_nodup.1 (?_ : (laneOrder size).toFinset.card = _)
  rw [hcells, Finset.card_product, Finset.card_erase_of_mem h6, Finset.card_range,
    Multiset.coe_card, length_laneOrder h]

theorem advanced_eq_iterate (size n : Nat) :
    advanced size n = (Traversal.advance size)^[n] (Traversal.start size []) := by
  induction n with
  | zero => rfl
  | succ n ih => rw [advanced, ih, Function.iterate_succ_apply']

/-- Settles O44: the walk of the lanes, read off advance by advance. -/
theorem traversalWalksLanes : Obligations.TraversalWalksLanes := by
  intro size h
  obtain ⟨m, hm, hsize⟩ := exists_lanes_of_legalSize h
  obtain ⟨u, hdone, hwalk⟩ := walks_laneOrder hm hsize
  simp only [← length_laneOrder h, advanced_eq_iterate]
  refine ⟨hwalk.visited, fun _ => hwalk.undone, ?_, nodup_laneOrder h, fun _ _ => mem_laneOrder h⟩
  rw [hwalk.last, hdone]

end Sys2Proof.Machine
end

section
/-!
SUPPORT. The PLACE command (spec/44_place.md R170 to R179): one pass over the lanes that gives each
free cell the next bit of the stream.
-/

namespace Sys2Proof.Machine

open Sys2Proof.Claims

/-! ### The machine with its load -/

/-- A traversal that has filled the grid `p.1` and counted `p.2` free cells. -/
def Traversal.carrying (t : Traversal) (p : Grid × Nat) : Traversal :=
  { t with mod := p.1, k := p.2 }

/-- The next bit of the stream goes into cell `rc` (R173, R175). -/
def fillCell (s : State) (p : Grid × Nat) (rc : Nat × Nat) : Grid × Nat :=
  (writeGrid p.1 rc.1 rc.2 (placedBit s p.2), p.2 + 1)

/-- The load of the machine does not steer it. -/
theorem Traversal.advance_carrying (size : Nat) (t : Traversal) (p : Grid × Nat) :
    (t.carrying p).advance size = (t.advance size).carrying p := by
  unfold Traversal.advance Traversal.carrying
  split_ifs <;> rfl

theorem placeStep_carrying (s : State) (size : Nat) (t : Traversal) (p : Grid × Nat) :
    placeStep s size (t.carrying p) = (t.advance size).carrying
      (if !readRsv s.rsv (t.cell size).1 (t.cell size).2 then fillCell s p (t.cell size)
        else p) := by
  have hstep : placeStep s size (t.carrying p) =
      (if readRsv s.rsv (t.cell size).1 (t.cell size).2 then t.carrying p
        else t.carrying (fillCell s p (t.cell size))).advance size := rfl
  rw [hstep]
  cases readRsv s.rsv (t.cell size).1 (t.cell size).2 <;> exact t.advance_carrying size _

/-- The placer fills the free cells of a walk in their order (R173). -/
theorem Walks.placeRun_carrying {size : Nat} {t u : Traversal} {l : List (Nat × Nat)}
    (h : Walks size t l u) (s : State) (p : Grid × Nat) :
    placeRun s size l.length (t.carrying p) =
      u.carrying ((l.filter fun rc => !readRsv s.rsv rc.1 rc.2).foldl (fillCell s) p) := by
  rw [List.foldl_filter]
  induction h generalizing p with
  | nil => rfl
  | @cons t u l hdone _ ih =>
    have hgo : (t.carrying p).done = false := hdone
    rw [List.length_cons, placeRun, hgo, placeStep_carrying, List.foldl_cons]
    exact ih _

theorem traverse_eq {s : State} (h : legalSize s.msize.toNat) :
    ∃ u : Traversal, traverse s = u.carrying ((freeCells s).foldl (fillCell s) (s.mod, 0)) := by
  obtain ⟨m, hm, hsize⟩ := exists_lanes_of_legalSize h
  obtain ⟨u, -, hwalk⟩ := walks_laneOrder hm hsize
  have hrun := hwalk.placeRun_carrying s (s.mod, 0)
  rw [length_laneOrder h] at hrun
  exact ⟨u, hrun⟩

/-! ### Filling a list of cells -/

section
variable (s : State) {l : List (Nat × Nat)} (p : Grid × Nat)

theorem foldl_fillCell_count (l : List (Nat × Nat)) :
    (l.foldl (fillCell s) p).2 = p.2 + l.length := by
  induction l generalizing p with
  | nil => rfl
  | cons rc l ih =>
    rw [List.foldl_cons, ih, List.length_cons, fillCell]
    omega

theorem readGrid_foldl_fillCell_other (hcol : ∀ rc ∈ l, rc.2 < 256) {r c : Nat} (hc : c < 256)
    (h : (r, c) ∉ l) : readGrid (l.foldl (fillCell s) p).1 r c = readGrid p.1 r c := by
  refine foldl_keeps (P := fun q : Grid × Nat => readGrid q.1 r c = readGrid p.1 r c) rfl
    fun q hq rc hrc => ?_
  rw [fillCell, readGrid_writeGrid _ _ (hcol rc hrc) hc, if_neg, hq]
  rintro ⟨rfl, rfl⟩
  exact h hrc

/-- The `i`-th cell of a list without repetitions keeps the bit that came `i` bits after the
first. -/
theorem readGrid_foldl_fillCell (hcol : ∀ rc ∈ l, rc.2 < 256) (hnodup : l.Nodup) {i : Nat}
    (hi : i < l.length) :
    readGrid (l.foldl (fillCell s) p).1 l[i].1 l[i].2 = some (placedBit s (p.2 + i)) := by
  induction l generalizing p i with
  | nil => exact absurd hi (Nat.not_lt_zero i)
  | cons rc l ih =>
    obtain ⟨hnotin, hnodup⟩ := List.nodup_cons.1 hnodup
    obtain ⟨hrc, hcol⟩ := List.forall_mem_cons.1 hcol
    rw [List.foldl_cons]
    cases i with
    | zero =>
      rw [List.getElem_cons_zero, readGrid_foldl_fillCell_other s _ hcol hrc hnotin, fillCell,
        readGrid_writeGrid _ _ hrc hrc, if_pos ⟨rfl, rfl⟩, Nat.add_zero]
    | succ i =>
      rw [List.getElem_cons_succ, ih _ hcol hnodup (Nat.lt_of_succ_lt_succ hi), fillCell,
        Nat.add_right_comm, Nat.add_assoc]

end

/-! ### The command -/

section
variable {s : State} (h : legalSize s.msize.toNat)
include h

theorem freeCells_col_lt : ∀ rc ∈ freeCells s, rc.2 < 256 := by
  intro rc hrc
  obtain ⟨-, hcol, -⟩ := (mem_laneOrder h).1 (List.mem_of_mem_filter hrc)
  omega

theorem traverse_k : (traverse s).k = (freeCells s).length := by
  obtain ⟨u, hu⟩ := traverse_eq h
  rw [hu]
  exact (foldl_fillCell_count s _ _).trans (Nat.zero_add _)

theorem readGrid_traverse_free {k : Nat} (hk : k < (freeCells s).length) :
    readGrid (traverse s).mod (freeCells s)[k].1 (freeCells s)[k].2 = some (streamBit s k) := by
  obtain ⟨u, hu⟩ := traverse_eq h
  have hfill := readGrid_foldl_fillCell s (s.mod, 0) (freeCells_col_lt h)
    ((nodup_laneOrder h).filter _) hk
  rw [Nat.zero_add] at hfill
  rw [hu]
  exact hfill

theorem readGrid_traverse_other {r c : Nat} (hc : c < 256) (hfree : (r, c) ∉ freeCells s) :
    readGrid (traverse s).mod r c = readGrid s.mod r c := by
  obtain ⟨u, hu⟩ := traverse_eq h
  rw [hu]
  exact readGrid_foldl_fillCell_other s _ (freeCells_col_lt h) hc hfree

/-- PLCELLS has room for the count. -/
theorem length_freeCells_lt : (freeCells s).length < 4096 := by
  rw [← traverse_k h]
  calc (traverse s).k ≤ s.msize.toNat * (s.msize.toNat - 1) := traverse_k_le s
    _ ≤ 63 * 63 := Nat.mul_le_mul (by omega) (by omega)
    _ < 4096 := by decide

end

theorem exec_place {s : State} (hmatv : s.status.matv = true) :
    exec .place s = .next { placeEffect s with responses := answered s 0#16 } :=
  exec_succeeds ⟨ne_false_of_eq_true hmatv, id, id⟩

/-- Settles O45: the walk of the lanes, filling the free cells on its way. -/
theorem placeFillsFreeCells : Obligations.PlaceFillsFreeCells := by
  refine ⟨codedZ_of_rowOf rfl, fun s => ⟨fun hmatv => exec_fails_seq hmatv, fun hmatv h =>
    ⟨_, exec_place hmatv, fun k => ?_, fun r c hc hfree => ?_, ?_, ?_⟩⟩⟩
  · exact readGrid_traverse_free h k.isLt
  · exact readGrid_traverse_other h hc hfree
  · rw [placeEffect_frame]
    dsimp only
    rw [traverse_k h, BitVec.toNat_ofNat, Nat.mod_eq_of_lt (length_freeCells_lt h)]
  · rw [placeEffect_frame, traverse_k h]
    generalize (traverse s).mod = mod
    rfl

/-- Settles O46: neither effect writes RSV or a reserved cell, and a failing command writes no
grid. -/
theorem reservedCellsUntouched : Obligations.ReservedCellsUntouched := by
  intro i s t hi h
  refine ⟨?_, fun r c hc hrsv => ?_⟩
  · rcases memory_of_exec h State.rsv (fun _ => rfl) (fun _ _ => rfl) with ht | ht <;> rw [ht]
    rcases hi with rfl | rfl <;> rfl
  · rcases memory_of_exec h State.mod (fun _ => rfl) (fun _ _ => rfl) with ht | ht <;> rw [ht]
    rcases hi with rfl | rfl
    · exact placeEffect_reserved hc hrsv
    · exact maskEffect_reserved hc hrsv

end Sys2Proof.Machine
end

section
/-!
SUPPORT. The MASK command (spec/45_mask.md R185 to R187): each cell of the matrix once, so a module
is the old one exclusive-ored with whether its cell is flipped.
-/

namespace Sys2Proof.Machine

open Sys2Proof.Claims

/-! ### One pass over the matrix -/

/-- MASK flips the module of cell `(r, c)`: a free cell of the matrix under the pattern (R185). -/
def maskFlips (s : State) (r c : Nat) : Bool :=
  decide (r < s.msize.toNat ∧ c < s.msize.toNat) && (!readRsv s.rsv r c && mask0 r c)

theorem readMod_writeGrid (g : Grid) {r c r' c' : Nat} (b : Bool) (hc : c < 256)
    (hc' : c' < 256) :
    readMod (writeGrid g r c b) r' c' = if r' = r ∧ c' = c then b else readMod g r' c' := by
  rw [readMod, readGrid_writeGrid g b hc hc']
  split <;> rfl

theorem readMod_maskCell_same (rsv g : Grid) {r c : Nat} (hc : c < 256) :
    readMod (maskCell rsv g (r, c)) r c =
      ((!readRsv rsv r c && mask0 r c) ^^ readMod g r c) := by
  rw [maskCell]
  split
  · next h => rw [h, readMod_writeGrid _ _ hc hc, if_pos ⟨rfl, rfl⟩, Bool.true_xor]
  · next h => rw [Bool.eq_false_of_not_eq_true h, Bool.false_xor]

theorem readMod_maskCell_other (rsv g : Grid) {r c : Nat} {rc : Nat × Nat} (hrc : rc.2 < 256)
    (hc : c < 256) (h : (r, c) ≠ rc) : readMod (maskCell rsv g rc) r c = readMod g r c := by
  rw [maskCell]
  split
  · rw [readMod_writeGrid _ _ hrc hc, if_neg]
    rintro ⟨rfl, rfl⟩
    exact h rfl
  · rfl

/-- A pass over distinct cells masks each of them once. -/
theorem readMod_foldl_maskCell (rsv : Grid) {l : List (Nat × Nat)} (hnodup : l.Nodup)
    (hcol : ∀ rc ∈ l, rc.2 < 256) (g : Grid) {r c : Nat} (hc : c < 256) :
    readMod (l.foldl (maskCell rsv) g) r c =
      ((decide ((r, c) ∈ l) && (!readRsv rsv r c && mask0 r c)) ^^ readMod g r c) := by
  induction l generalizing g with
  | nil => simp
  | cons rc l ih =>
    obtain ⟨hnotin, hnodup⟩ := List.nodup_cons.1 hnodup
    obtain ⟨hrc, hcol⟩ := List.forall_mem_cons.1 hcol
    rw [List.foldl_cons, ih hnodup hcol]
    by_cases h : (r, c) = rc
    · subst h
      rw [readMod_maskCell_same rsv g hc]
      simp [hnotin]
    · rw [readMod_maskCell_other rsv g hrc hc h]
      simp [h]

theorem nodup_matrix (size : Nat) : (block 0 0 size size).Nodup := by
  have hblock : block 0 0 size size = List.range size ×ˢ List.range size := by
    simp only [block, Nat.zero_add]
    rfl
  rw [hblock]
  exact List.nodup_range.product List.nodup_range

/-- What MASK does to each module (R185). -/
theorem readMod_maskEffect (s : State) {r c : Nat} (hc : c < 256) :
    readMod (maskEffect s).mod r c = (maskFlips s r c ^^ readMod s.mod r c) := by
  have hcol : ∀ rc ∈ block 0 0 s.msize.toNat s.msize.toNat, rc.2 < 256 := fun rc hrc => by
    have hlt := (mem_matrix.1 hrc).2
    omega
  rw [maskEffect, readMod_foldl_maskCell s.rsv (nodup_matrix _) hcol s.mod hc, maskFlips]
  simp only [mem_matrix]

/-! ### The command -/

/-- The state with other responses delivered. -/
def withResponses (s : State) (rs : List Word) : State := { s with responses := rs }

@[simp] theorem withResponses_mod (s : State) (rs : List Word) :
    (withResponses s rs).mod = s.mod := rfl

/-- A command that answers with no data, whatever was answered before it. -/
theorem exec_withResponses {i : Instr} {s : State} {rs : List Word}
    (hacc : Accepted i (withResponses s rs)) (hdata : dataOf i (withResponses s rs) = 0#16)
    (heffect : effectOf i (withResponses s rs) = withResponses (effectOf i s) rs) :
    exec i (withResponses s rs) = .next (withResponses (effectOf i s) (rs ++ [0#32])) := by
  rw [exec_succeeds hacc, hdata, heffect]
  rfl

theorem exec_mask (s : State) (rs : List Word) (hmatv : s.status.matv = true) :
    exec .mask (withResponses s rs) = .next (withResponses (maskEffect s) (rs ++ [0#32])) :=
  exec_withResponses (i := .mask) ⟨ne_false_of_eq_true hmatv, id, id⟩ rfl rfl

/-- Settles O47: inside the matrix a cell is flipped when it is free and under the pattern. -/
theorem maskFlipsCheckerboard : Obligations.MaskFlipsCheckerboard := by
  refine ⟨codedZ_of_rowOf rfl, fun s => ⟨fun hmatv => exec_fails_seq hmatv, fun hmatv =>
    ⟨_, exec_mask s s.responses hmatv, fun r hr c hc => ?_, by rw [maskEffect_frame]; rfl⟩⟩⟩
  have hflips : maskFlips s r c = true ↔ readRsv s.rsv r c = false ∧ (r + c) % 2 = 0 := by
    simp [maskFlips, mask0, hr, hc]
  refine (readMod_maskEffect s (by omega)).trans ?_
  split
  · next h => rw [hflips.2 h, Bool.true_xor]
  · next h => rw [Bool.eq_false_of_not_eq_true (mt hflips.1 h), Bool.false_xor]

/-- MASK writes neither MSIZE nor RSV, so a second MASK flips the same cells again (R187). -/
theorem readMod_maskEffect_maskEffect (s : State) {r c : Nat} (hc : c < 256) :
    readMod (maskEffect (maskEffect s)).mod r c = readMod s.mod r c := by
  have hsame : maskFlips (maskEffect s) r c = maskFlips s r c := rfl
  rw [readMod_maskEffect _ hc, readMod_maskEffect s hc, hsame, ← Bool.xor_assoc, Bool.xor_self,
    Bool.false_xor]

theorem Status.afterMask_afterMask (t : Status) : t.afterMask.afterMask = t := by
  simp only [Status.afterMask, Bool.not_not]

theorem maskEffect_maskEffect (s : State) :
    maskEffect (maskEffect s) = { s with mod := (maskEffect (maskEffect s)).mod } := by
  have hframe := maskEffect_frame (maskEffect s)
  generalize (maskEffect (maskEffect s)).mod = mod at hframe ⊢
  rw [hframe]
  simp only [maskEffect, Status.afterMask_afterMask]

/-- Settles O48: both passes flip the same cells, and MASKED is toggled twice. -/
theorem maskIsInvolution : Obligations.MaskIsInvolution := by
  intro s hmatv
  refine ⟨_, _, exec_mask s s.responses hmatv, exec_mask (maskEffect s) _ hmatv,
    fun r c hc => readMod_maskEffect_maskEffect s hc, ?_⟩
  rw [List.append_assoc]
  exact congrArg (withResponses · _) (maskEffect_maskEffect s)

/-! ### MASK and FMTWR -/

theorem fmtwrEffect_withResponses (s : State) (rs : List Word) :
    fmtwrEffect (withResponses s rs) = withResponses (fmtwrEffect s) rs :=
  fmtwrEffect_comm (u := (withResponses · rs))

theorem exec_fmtwr (s : State) (rs : List Word) (hmatv : s.status.matv = true)
    (heclv : s.status.eclv = true) :
    exec .fmtwr (withResponses s rs) = .next (withResponses (fmtwrEffect s) (rs ++ [0#32])) :=
  exec_withResponses (i := .fmtwr)
    ⟨not_or.2 ⟨ne_false_of_eq_true hmatv, ne_false_of_eq_true heclv⟩, id, id⟩ rfl
    (fmtwrEffect_withResponses s rs)

/-- Two grids list the same modules in the cells that `rsv` reserves. -/
def AgreeOnReserved (rsv g g' : Grid) : Prop :=
  ∀ r c, c < 256 → readRsv rsv r c = true → readGrid g r c = readGrid g' r c

theorem writeStable_agreeOnReserved {size : Nat} (hsize : size ≤ 256) (rsv : Grid) :
    WriteStable size (AgreeOnReserved rsv) := by
  intro g g' r c b _ hc h i j hj hrsv
  rw [readGrid_writeGrid g b (by omega) hj, readGrid_writeGrid g' b (by omega) hj, h i j hj hrsv]

/-- Where the strips are reserved, the order of MASK and FMTWR does not show (R187): MASK leaves a
reserved cell alone, and FMTWR leaves a free one alone. -/
theorem readMod_fmtwrEffect_maskEffect {s : State}
    (hstrips : ∀ p ∈ strip1 s.msize.toNat ++ strip2 s.msize.toNat, readRsv s.rsv p.1 p.2 = true)
    {r c : Nat} (hc : c < 256) :
    readMod (fmtwrEffect (maskEffect s)).mod r c =
      readMod (maskEffect (fmtwrEffect s)).mod r c := by
  cases hrsv : readRsv s.rsv r c with
  | true =>
    have hmask : AgreeOnReserved s.rsv (maskEffect s).mod s.mod :=
      fun _ _ hc => maskEffect_reserved hc
    have hfmtwr : AgreeOnReserved s.rsv (fmtwrEffect (maskEffect s)).mod (fmtwrEffect s).mod :=
      fmtwrEffect_related (n := 256) rfl rfl (by omega) (by omega)
        (writeStable_agreeOnReserved (Nat.le_refl _) s.rsv) hmask
    have hrev : readGrid (maskEffect (fmtwrEffect s)).mod r c = readGrid (fmtwrEffect s).mod r c :=
      maskEffect_reserved hc hrsv
    rw [readMod, readMod, hfmtwr r c hc hrsv, hrev]
  | false =>
    have hout : (r, c) ∉ stripH s.msize.toNat ++ stripV s.msize.toNat := fun hmem =>
      Bool.noConfusion ((hstrips (r, c) hmem).symm.trans hrsv)
    obtain ⟨hH, hV⟩ := not_or.1 (mt List.mem_append.2 hout)
    have hkept (t : State) (hsize : t.msize = s.msize) :
        readMod (fmtwrEffect t).mod r c = readMod t.mod r c := by
      rw [← hsize] at hH hV
      rw [readMod, fmtwrEffect_other hc hH hV, readMod]
    have hsame : maskFlips (fmtwrEffect s) r c = maskFlips s r c := rfl
    rw [hkept (maskEffect s) rfl, readMod_maskEffect s hc, readMod_maskEffect _ hc, hkept s rfl,
      hsame]

theorem withResponses_with_mod {s t : State} (h : s = { t with mod := s.mod }) (rs : List Word) :
    withResponses s rs = { withResponses t rs with mod := (withResponses s rs).mod } :=
  congrArg (withResponses · rs) h

/-- MASK and FMTWR write registers of their own, so their order shows in no register (R187). -/
theorem fmtwrEffect_maskEffect (s : State) :
    fmtwrEffect (maskEffect s) =
      { maskEffect (fmtwrEffect s) with mod := (fmtwrEffect (maskEffect s)).mod } := by
  have hframe := fmtwrEffect_frame (maskEffect s)
  generalize (fmtwrEffect (maskEffect s)).mod = mod at hframe ⊢
  rw [hframe]
  rfl

/-- Settles O49: the modules by whether the cell is reserved, the registers because each command
writes its own. -/
theorem maskCommutesWithFmtwr : Obligations.MaskCommutesWithFmtwr := by
  intro s hmatv heclv hstrips
  refine ⟨_, _, _, _, exec_mask s s.responses hmatv, exec_fmtwr (maskEffect s) _ hmatv heclv,
    exec_fmtwr s s.responses hmatv heclv, exec_mask (fmtwrEffect s) _ hmatv, fun r c hc => ?_, ?_⟩
  · rw [withResponses_mod, withResponses_mod]
    exact readMod_fmtwrEffect_maskEffect hstrips hc
  · exact withResponses_with_mod (fmtwrEffect_maskEffect s) _

end Sys2Proof.Machine
end

section
/-!
SUPPORT. The divider of the format word (spec/46_format.md R190 to R193, R199): its steps subtract
multiples of the generator and clear the bits of the field.
-/

namespace Sys2Proof.Machine

open Sys2Proof.Claims

/-! ### Multiples of the generator -/

theorem bchMultiple_xor (p q : BitVec 5) :
    bchMultiple (p ^^^ q) = bchMultiple p ^^^ bchMultiple q := by
  refine foldl_xor (fun u v i => ?_) _ 0#15 0#15
  rw [BitVec.getLsbD_xor, ite_xor_bits]

/-- The generator lined up with bit `i` of the register is the multiple by one power of `x`. -/
theorem bchGen_shift_eq_bchMultiple :
    ∀ i ∈ [14, 13, 12, 11, 10], Config.BCH_GEN <<< (i - 10) = bchMultiple (1#5 <<< (i - 10)) := by
  decide

/-- The divider subtracts a multiple of the generator (R191). -/
theorem exists_bchReduce_eq (w : BitVec 15) : ∃ q, bchReduce w = w ^^^ bchMultiple q := by
  refine foldl_keeps (P := fun rem => ∃ q, rem = w ^^^ bchMultiple q)
    ⟨0#5, BitVec.xor_zero.symm⟩ ?_
  rintro _ ⟨q, rfl⟩ i hi
  rw [bchStep]
  split
  · exact ⟨q ^^^ 1#5 <<< (i - 10), by
      rw [bchGen_shift_eq_bchMultiple i hi, bchMultiple_xor, BitVec.xor_assoc]⟩
  · exact ⟨q, rfl⟩

/-- The generator's highest term lines up with bit `i` (R191). -/
theorem getLsbD_bchGen_shift : ∀ i ∈ [14, 13, 12, 11, 10], ∀ j < 15, i ≤ j →
    (Config.BCH_GEN <<< (i - 10)).getLsbD j = decide (j = i) := by
  decide

/-- The bits of the divider's register from position `i` up are clear. -/
def ClearFrom (i : Nat) (rem : BitVec 15) : Prop := ∀ j, i ≤ j → j < 15 → rem.getLsbD j = false

/-- Step `i` of the divider clears bit `i` and leaves the bits above it (R191). -/
theorem clearFrom_bchStep {i : Nat} (hi : i ∈ [14, 13, 12, 11, 10]) {rem : BitVec 15}
    (h : ClearFrom (i + 1) rem) : ClearFrom i (bchStep rem i) := by
  intro j hij hj
  rw [bchStep]
  split
  · next hbit =>
    rw [BitVec.getLsbD_xor, getLsbD_bchGen_shift i hi j hj hij]
    obtain rfl | hlt := Nat.eq_or_lt_of_le hij
    · simp [hbit]
    · simp [h j hlt hj, Nat.ne_of_gt hlt]
  · next hbit =>
    obtain rfl | hlt := Nat.eq_or_lt_of_le hij
    · exact Bool.eq_false_of_not_eq_true hbit
    · exact h j hlt hj

/-- After the divider the bits of the field are clear (R191). -/
theorem clearFrom_bchReduce (w : BitVec 15) : ClearFrom 10 (bchReduce w) := by
  have h15 : ClearFrom 15 w := fun j hj hlt => absurd hlt (Nat.not_lt.2 hj)
  have h14 := clearFrom_bchStep (i := 14) (by decide) h15
  have h13 := clearFrom_bchStep (i := 13) (by decide) h14
  have h12 := clearFrom_bchStep (i := 12) (by decide) h13
  have h11 := clearFrom_bchStep (i := 11) (by decide) h12
  exact clearFrom_bchStep (i := 10) (by decide) h11

/-- The remainder is the whole register: zeros in the field's place, then its ten bits (R191). -/
theorem zero_append_remainder (w : BitVec 15) :
    0#5 ++ (bchReduce w).setWidth 10 = bchReduce w := by
  refine BitVec.eq_of_getLsbD_eq fun j hj => ?_
  rw [BitVec.getLsbD_append, BitVec.getLsbD_setWidth]
  by_cases h : j < 10
  · simp [h]
  · rw [clearFrom_bchReduce w j (Nat.not_lt.1 h) hj]
    simp [h]

/-! ### The format word -/

/-- The word before the fixed mask: the field on top of the remainder of its division (R191). -/
def bchCodeword (f : BitVec 5) : BitVec 15 := f ++ (bchReduce (f ++ 0#10)).setWidth 10

theorem bch15_eq (f : BitVec 5) : bch15 f = bchCodeword f ^^^ 0x5412#15 := rfl

theorem bch15_xor_mask (f : BitVec 5) : bch15 f ^^^ 0x5412#15 = bchCodeword f := by
  rw [bch15_eq, BitVec.xor_assoc, BitVec.xor_self, BitVec.xor_zero]

/-- The field stands on top (R191). -/
theorem bchCodeword_shift (f : BitVec 5) : bchCodeword f >>> 10 = BitVec.ofNat 15 f.toNat := by
  rw [bchCodeword, BitVec.ofNat_toNat]
  refine BitVec.eq_of_getLsbD_eq fun j hj => ?_
  rw [BitVec.getLsbD_ushiftRight, BitVec.getLsbD_append, if_neg (by omega), Nat.add_sub_cancel_left,
    BitVec.getLsbD_setWidth]
  simp [hj]

/-- The remainder completes the field to a multiple of the generator (R199). -/
theorem exists_bchCodeword_eq (f : BitVec 5) : ∃ q, bchCodeword f = bchMultiple q := by
  obtain ⟨q, hq⟩ := exists_bchReduce_eq (f ++ 0#10)
  refine ⟨q, ?_⟩
  calc bchCodeword f
      = (f ++ 0#10) ^^^ (0#5 ++ (bchReduce (f ++ 0#10)).setWidth 10) := by
        rw [BitVec.xor_append, BitVec.xor_zero, BitVec.zero_xor, bchCodeword]
    _ = (f ++ 0#10) ^^^ ((f ++ 0#10) ^^^ bchMultiple q) := by rw [zero_append_remainder, hq]
    _ = bchMultiple q := by rw [← BitVec.xor_assoc, BitVec.xor_self, BitVec.zero_xor]

/-- Dividing the fixed mask leaves 0x255 (R199). -/
theorem formatMask_eq : 0x5412#15 = bchMultiple 0x11#5 ^^^ 0x255#15 := by decide

/-- Settles O51: BCHENC checks its operand alone; the divider completes the field to a multiple of
the generator, and the fixed mask adds its own remainder. -/
theorem bchencReturnsWord : Obligations.BchencReturnsWord := by
  refine ⟨codedA_of_rowOf rfl, fun f s => ⟨fun hf => exec_fails_arg id hf, fun hf =>
    ⟨bch15 (f.setWidth 5), exec_succeeds ⟨id, Nat.not_lt.2 hf, id⟩, ?_, ?_, ?_⟩⟩⟩
  · rw [bch15_xor_mask, bchCodeword_shift, BitVec.toNat_setWidth, Nat.mod_eq_of_lt (by omega)]
  · rw [bch15_xor_mask]
    exact exists_bchCodeword_eq _
  · obtain ⟨q, hq⟩ := exists_bchCodeword_eq (f.setWidth 5)
    exact ⟨q ^^^ 0x11#5, by
      rw [bch15_eq, hq, formatMask_eq, bchMultiple_xor, BitVec.xor_assoc]⟩

end Sys2Proof.Machine
end

section
/-!
SUPPORT. The FMTWR command (spec/46_format.md R192, R194 to R196): both strips hold a cell at the
same index, so the two writes of the word agree.
-/

namespace Sys2Proof.Machine

open Sys2Proof.Claims

/-- The four words FMTWR can produce (R192). -/
theorem bch15_formatField (e : BitVec 2) : bch15 (formatField e) = formatWord e := by
  revert e
  decide

/-- The cells of both strips with their indexes, in the order FMTWR writes them (R194). -/
def stripCells (size : Nat) : List ((Nat × Nat) × Nat) :=
  (stripH size).zipIdx ++ (stripV size).zipIdx

theorem mem_stripCells {size : Nat} {p : Nat × Nat} {k : Nat} :
    (p, k) ∈ stripCells size ↔ (stripH size)[k]? = some p ∨ (stripV size)[k]? = some p := by
  simp only [stripCells, List.mem_append, List.mem_zipIdx_iff_getElem?]

/-- One write of FMTWR: bit `14 - k` of the word into the cell at index `k` (R194). -/
def writeBit (w : BitVec 15) (g : Grid) (x : (Nat × Nat) × Nat) : Grid :=
  writeGrid g x.1.1 x.1.2 (w.getLsbD (14 - x.2))

theorem withStrips_eq (e : BitVec 2) (size : Nat) (g : Grid) :
    withStrips e size g = (stripCells size).foldl (writeBit (formatWord e)) g := by
  rw [stripCells, List.foldl_append, withStrips, bch15_formatField]
  rfl

theorem readGrid_writeBit (w : BitVec 15) (g : Grid) {x : (Nat × Nat) × Nat} {p : Nat × Nat}
    (hx : x.1.2 < 256) (hp : p.2 < 256) : readGrid (writeBit w g x) p.1 p.2 =
      if p = x.1 then some (w.getLsbD (14 - x.2)) else readGrid g p.1 p.2 := by
  rw [writeBit, readGrid_writeGrid _ _ hx hp]
  exact ite_congr (propext Prod.ext_iff.symm) (fun _ => rfl) fun _ => rfl

/-- The index of a cell in the strips that hold it (R195, R196). -/
def stripIndex (size : Nat) (p : Nat × Nat) : Nat :=
  if p.1 = 8 then
    if p.2 ≤ 5 then p.2 else if p.2 ≤ 8 then p.2 - 1 else p.2 + 16 - size
  else if p.1 ≤ 5 then 14 - p.1 else if p.1 = 7 then 8 else size - 1 - p.1

theorem stripIndex_of_mem {size : Nat} (h17 : 17 ≤ size) :
    ∀ x ∈ stripCells size, stripIndex size x.1 = x.2 := by
  obtain ⟨n, rfl⟩ := Nat.exists_eq_add_of_le' h17
  simp [stripCells, stripH, stripV, stripIndex]

theorem stripCells_lt {size n : Nat} (hn : 9 ≤ n) (hsize : size ≤ n) {x : (Nat × Nat) × Nat}
    (hx : x ∈ stripCells size) : x.1.1 < n ∧ x.1.2 < n := by
  obtain ⟨p, k⟩ := x
  rcases mem_stripCells.1 hx with h | h
  · exact stripH_lt hn hsize (List.mem_of_getElem? h)
  · exact stripV_lt hn hsize (List.mem_of_getElem? h)

/-- The cell at index `k` of a strip holds bit `14 - k` of the format word (R194). -/
theorem readGrid_withStrips (e : BitVec 2) {size : Nat} (h17 : 17 ≤ size) (h256 : size ≤ 256)
    (g : Grid) {p : Nat × Nat} {k : Nat} (hp : (p, k) ∈ stripCells size) :
    readGrid (withStrips e size g) p.1 p.2 = some ((formatWord e).getLsbD (14 - k)) := by
  have hcol {x : (Nat × Nat) × Nat} (hx : x ∈ stripCells size) : x.1.2 < 256 :=
    (stripCells_lt (by omega) h256 hx).2
  have hindex {x : (Nat × Nat) × Nat} (hx : x ∈ stripCells size) (h : p = x.1) : x.2 = k := by
    rw [← stripIndex_of_mem h17 x hx, ← h, stripIndex_of_mem h17 _ hp]
  rw [withStrips_eq]
  refine (foldl_observe (obs := fun g => readGrid g p.1 p.2) (hit := fun x => p = x.1)
    (iff_true_intro ⟨(p, k), hp, rfl⟩) (fun g x hx => ?_) g).trans (if_pos trivial)
  rw [readGrid_writeBit _ _ (hcol hx) (hcol hp)]
  exact ite_congr rfl (fun h => by rw [hindex hx h]) fun _ => rfl

theorem fmtwrEffect_mod (s : State) :
    (fmtwrEffect s).mod = withStrips s.eclbits s.msize.toNat s.mod := by
  rw [fmtwrEffect_eq, withFormat]

/-- Settles O52: FMTWR checks MATV and ECLV; each strip cell holds the bit of its index, and the
other cells are not written. -/
theorem fmtwrWritesStrips : Obligations.FmtwrWritesStrips := by
  refine ⟨codedZ_of_rowOf rfl, fun s => ⟨fun h => exec_fails_seq h, fun hmatv heclv hsize =>
    ⟨_, exec_fmtwr s s.responses hmatv heclv, fun k p hp => ?_, fun r c hc hout => ?_, ?_⟩⟩⟩
  · have h17 : 17 ≤ s.msize.toNat := by
      obtain ⟨v, -, -, hv⟩ := hsize
      exact hv ▸ Nat.le_add_right 17 (4 * v)
    rw [withResponses_mod, fmtwrEffect_mod]
    exact readGrid_withStrips s.eclbits h17 (by omega) s.mod (mem_stripCells.2 hp)
  · obtain ⟨hH, hV⟩ := not_or.1 (mt List.mem_append.2 hout)
    rw [withResponses_mod]
    exact fmtwrEffect_other hc hH hV
  · have hframe := fmtwrEffect_frame s
    rw [withResponses_mod]
    generalize (fmtwrEffect s).mod = mod at hframe ⊢
    rw [hframe, bch15_formatField]
    rfl

end Sys2Proof.Machine
end

section
/-!
SUPPORT. The ENCODE command (spec/47_encode.md R205 to R207): its six stages one by one, its checks
and its registers.
-/

namespace Sys2Proof.Machine

open Sys2Proof.Claims

/-! ### The stages one by one (R207) -/

/-- No effect but the responses depends on the responses delivered so far. -/
theorem effectOf_withResponses (i : Instr) (s : State) (rs : List Word) :
    effectOf i (withResponses s rs) = withResponses (effectOf i s) rs := by
  have hrsenc (s : State) : rsencEffect (withResponses s rs) = withResponses (rsencEffect s) rs :=
    rsencEffect_comm (u := (withResponses · rs))
  have hmbuild (s : State) :
      mbuildEffect (withResponses s rs) = withResponses (mbuildEffect s) rs :=
    mbuildEffect_comm (u := (withResponses · rs))
  have hplace (s : State) : placeEffect (withResponses s rs) = withResponses (placeEffect s) rs :=
    placeEffect_comm (u := (withResponses · rs))
  cases i with
  | gfinit => simp only [effectOf, gfinitEffect, withResponses]
  | rsenc => exact hrsenc s
  | mbuild => exact hmbuild s
  | place => exact hplace s
  | fmtwr => exact fmtwrEffect_withResponses s rs
  | encode n =>
    have hrsgen : rsgenEffect n (withResponses s rs) = withResponses (rsgenEffect n s) rs := rfl
    have hmask (s : State) : maskEffect (withResponses s rs) = withResponses (maskEffect s) rs :=
      rfl
    simp only [effectOf, encodeEffect, hrsgen, hrsenc, hmbuild, hplace, hmask,
      fmtwrEffect_withResponses]
  | _ => rfl

theorem Accepted.withResponses {i : Instr} {s : State} (h : Accepted i s) (rs : List Word) :
    Accepted i (withResponses s rs) :=
  ⟨mt (seqWhen_congr rfl).1 h.seq, mt (argWhen_congr rfl rfl rfl Iff.rfl).1 h.arg,
    mt (capWhen_congr rfl rfl).1 h.cap⟩

/-- A stage of ENCODE as a command of its own, whatever was answered before it. -/
theorem exec_stage {i : Instr} {s : State} (hacc : Accepted i s)
    (hdata : ∀ u, dataOf i u = 0#16) (rs : List Word) :
    exec i (withResponses s rs) = .next (withResponses (effectOf i s) (rs ++ [0#32])) :=
  exec_withResponses (hacc.withResponses rs) (hdata _) (effectOf_withResponses i s rs)

/-- The responses put in last are the ones held. -/
theorem with_responses_withResponses (s : State) (rs rs' : List Word) :
    { s with responses := rs' } = { withResponses s rs with responses := rs' } := rfl

/-- Settles O53: each stage is accepted where the one before it leaves off, and ENCODE's effect is
theirs in a row. -/
theorem encodeIsSixCommands : Obligations.EncodeIsSixCommands := by
  intro n s h
  refine ⟨_, _, _, _, _, _, _,
    exec_stage (accepted_rsgen_of_ready h) (fun _ => rfl) s.responses,
    exec_stage (accepted_rsenc_of_ready h) (fun _ => rfl) _,
    exec_stage (accepted_mbuild_of_ready h) (fun _ => rfl) _,
    exec_stage (accepted_place_of_mbuild _) (fun _ => rfl) _,
    exec_stage (accepted_mask_of_mbuild _) (fun _ => rfl) _,
    exec_stage (accepted_fmtwr_of_ready h) (fun _ => rfl) _, ?_, exec_encode h,
    with_responses_withResponses (encodeEffect n s) _ _⟩
  simp only [withResponses, List.append_assoc]
  rfl

/-! ### The checks and the registers (R206, R207) -/

theorem not_seqWhen_encode {n : Byte} {s : State} (htblv : s.status.tblv = true)
    (hverv : s.status.verv = true) (heclv : s.status.eclv = true) (hecv : s.status.ecv = false) :
    ¬ seqWhen (.encode n) s := by
  simp [seqWhen, htblv, hverv, heclv, hecv]

/-- Settles O54: the checks in the order of R206, and the frame of the six stages. -/
theorem encodeChecksAndRegisters : Obligations.EncodeChecksAndRegisters := by
  refine ⟨codedA_of_rowOf rfl, fun n s => ⟨fun h => exec_fails_seq h,
    fun htblv hverv heclv hecv => ?_, fun h hversion => ⟨_, exec_encode h, ?_⟩⟩⟩
  · have hseq : ¬ seqWhen (.encode n) s := not_seqWhen_encode htblv hverv heclv hecv
    refine ⟨fun harg => exec_fails_arg hseq (harg.imp_left (byte_toNat_eq_zero_iff n).2),
      fun hn hlegal hfull => exec_fails_cap hseq (not_or.2 ⟨?_, not_not.2 hlegal⟩) hfull⟩
    exact mt (byte_toNat_eq_zero_iff n).1 hn
  · have hmsize := toNat_msize_encodeEffect n hversion
    obtain ⟨-, -, -, -, -, -, hcap⟩ := h
    obtain ⟨k, gen, rem, cw, mod, rsv, hframe⟩ := encodeEffect_frame n s
    have hcwlen : (s.cwlen + n.setWidth 10).toNat = s.cwlen.toNat + n.toNat :=
      toNat_cwlen_add_nec (s := { s with nec := n }) hcap
    rw [hframe] at hmsize ⊢
    exact ⟨rfl, rfl, hcwlen, hmsize, bch15_formatField s.eclbits, rfl⟩

end Sys2Proof.Machine
end

section
/-!
SUPPORT. What ENCODE depends on (spec/47_encode.md R208): two runs side by side, each stage in
agreement on what the next one reads.
-/

namespace Sys2Proof.Machine

open Sys2Proof.Claims

/-! ### The codewords -/

/-- The state after ENCODE's first two stages: the buffer holds data and check bytes (R205). -/
def encodedBuffer (n : Byte) (s : State) : State := rsencEffect (rsgenEffect n s)

theorem encodedBuffer_frame (n : Byte) (s : State) :
    encodedBuffer n s = { s with
      gen := (rsgenEffect n s).gen, rem := (encodedBuffer n s).rem, cw := (encodedBuffer n s).cw
      nec := n, ndata := s.cwlen, cwlen := s.cwlen + n.setWidth 10
      status := { s.status with genv := true, ecv := true } } :=
  rsencEffect_frame (rsgenEffect n s)

/-- Two states agree on VERSION, ECLBITS, the coordinates in use and the codewords. -/
structure SameInputs (s s' : State) : Prop where
  version : s.version = s'.version
  eclbits : s.eclbits = s'.eclbits
  list : alignList s = alignList s'
  cwlen : s.cwlen = s'.cwlen
  cw : ∀ i < s.cwlen.toNat, readCw s i = readCw s' i

/-- The divider reads the tables, the generator and the codewords (R135). -/
theorem remAfter_congr {s s' : State} (ht : SameTables s s') (hnec : s.nec = s'.nec)
    (hgen : ∀ j ≤ s.nec.toNat, readGen s j = readGen s' j) {k : Nat}
    (hcw : ∀ i < k, readCw s i = readCw s' i) {j : Nat} (hj : j < s.nec.toNat) :
    remAfter s k j = remAfter s' k j := by
  induction k generalizing j with
  | zero => rfl
  | succ k ih =>
    have hrem {j : Nat} (hj : j < s.nec.toNat) : remAfter s k j = remAfter s' k j :=
      ih (fun i hi => hcw i (Nat.lt_succ_of_lt hi)) hj
    rw [remAfter, remAfter, ← hnec, hrem (Nat.zero_lt_of_lt hj), hgen _ hj,
      hcw k (Nat.lt_succ_self k), ht.gfmul]
    split
    · next hj1 => rw [hrem hj1]
    · rfl

section
variable (n : Byte) (s : State)

theorem readGen_rsgenEffect {j : Nat} (hj : j ≤ n.toNat) :
    readGen (rsgenEffect n s) j = genCoeff s n.toNat j := by
  rw [readGen, readCell_rsgenEffect_gen n s hj, Option.getD_some]

theorem readRem_encodedBuffer {j : Nat} (hj : j < n.toNat) :
    readRem (encodedBuffer n s) j = remAfter (rsgenEffect n s) s.cwlen.toNat j :=
  readRem_of_readCell (readCell_divided (rsgenEffect n s) hj)

/-- The data, and behind them the remainder (R137). -/
theorem readCw_encodedBuffer (i : Nat) : readCw (encodedBuffer n s) i =
    if s.cwlen.toNat ≤ i ∧ i < s.cwlen.toNat + n.toNat then
      readRem (encodedBuffer n s) (i - s.cwlen.toNat) else readCw s i := by
  have hcw : readCell (encodedBuffer n s).cw i =
      if s.cwlen.toNat ≤ i ∧ i < s.cwlen.toNat + n.toNat then
        some (readRem (encodedBuffer n s) (i - s.cwlen.toNat)) else readCell s.cw i :=
    readCell_rsencEffect_cw (rsgenEffect n s) i
  rw [readCw, hcw]
  split <;> rfl

theorem cwlen_encodedBuffer (hcap : s.cwlen.toNat + n.toNat ≤ 512) :
    (encodedBuffer n s).cwlen.toNat = s.cwlen.toNat + n.toNat :=
  cwlen_rsencEffect (rsgenEffect n s) hcap

end

section
variable {n : Byte} {s s' : State} (ht : SameTables s s')
include ht

theorem SameTables.readGen_rsgenEffect {j : Nat} (hj : j ≤ n.toNat) :
    readGen (rsgenEffect n s) j = readGen (rsgenEffect n s') j := by
  rw [Machine.readGen_rsgenEffect n s hj, Machine.readGen_rsgenEffect n s' hj,
    ht.genCoeff (by omega)]

variable (h : SameInputs s s')
include h

theorem SameInputs.readRem_encodedBuffer {j : Nat} (hj : j < n.toNat) :
    readRem (encodedBuffer n s) j = readRem (encodedBuffer n s') j := by
  rw [Machine.readRem_encodedBuffer n s hj, Machine.readRem_encodedBuffer n s' hj, ← h.cwlen]
  exact remAfter_congr (s := rsgenEffect n s) (s' := rsgenEffect n s') ⟨ht.exp, ht.log⟩ rfl
    (fun _ => ht.readGen_rsgenEffect) h.cw hj

/-- RSGEN and RSENC keep the agreement: the check bytes are the same (R137). -/
theorem SameInputs.encodedBuffer (hready : encodeReady n s) :
    SameInputs (encodedBuffer n s) (encodedBuffer n s') := by
  obtain ⟨-, -, -, -, -, -, hcap⟩ := hready
  have hcw : ∀ i < (Machine.encodedBuffer n s).cwlen.toNat,
      readCw (Machine.encodedBuffer n s) i = readCw (Machine.encodedBuffer n s') i := by
    intro i hi
    rw [cwlen_encodedBuffer n s hcap] at hi
    rw [readCw_encodedBuffer, readCw_encodedBuffer, ← h.cwlen]
    split
    · exact h.readRem_encodedBuffer ht (by omega)
    · exact h.cw i (by omega)
  rw [encodedBuffer_frame n s, encodedBuffer_frame n s'] at hcw ⊢
  exact ⟨h.version, h.eclbits, h.list, congrArg (· + n.setWidth 10) h.cwlen, hcw⟩

end

/-! ### The matrix, the registers and the flags -/

/-- ENCODE's last three stages, on the matrix MBUILD has left (R205). -/
def drawn (s : State) : State := fmtwrEffect (maskEffect (placeEffect s))

theorem encodeEffect_eq (n : Byte) (s : State) :
    encodeEffect n s = drawn (mbuildEffect (encodedBuffer n s)) := rfl

theorem plcells_drawn (s : State) : (drawn s).plcells = BitVec.ofNat 12 (traverse s).k := rfl

theorem status_drawn (s : State) : (drawn s).status =
    (s.status.afterPlace (traverse s).k (cwBits s)).afterMask.afterFmtwr := rfl

theorem rsv_drawn (s : State) : (drawn s).rsv = s.rsv := rfl

/-- STATUS but for ERR after an ENCODE whose placer had `nbits` bits for `k` free cells (R207). -/
def encodedStatus (k nbits : Nat) : Status where
  tblv := true
  genv := true
  ecv := true
  verv := true
  eclv := true
  matv := true
  placed := true
  masked := true
  fmtd := true
  plshort := decide (k > nbits)
  plover := decide (k < nbits)
  err := .ok

theorem status_encodeEffect {n : Byte} {s : State} (h : encodeReady n s) :
    { (encodeEffect n s).status with err := .ok } =
      encodedStatus (traverse (mbuildEffect (encodedBuffer n s))).k
        (cwBits (mbuildEffect (encodedBuffer n s))) := by
  obtain ⟨htblv, hverv, heclv, -⟩ := h
  have hmbuild : (mbuildEffect (encodedBuffer n s)).status =
      Status.afterMbuild { s.status with genv := true, ecv := true } := by
    rw [encodedBuffer_frame]
    rfl
  rw [encodeEffect_eq, status_drawn, hmbuild]
  simp only [Status.afterMbuild, Status.afterPlace, Status.afterMask, Status.afterFmtwr,
    encodedStatus, htblv, hverv, heclv, Bool.not_false]

theorem readGen_encodeEffect (n : Byte) (s : State) (j : Nat) :
    readGen (encodeEffect n s) j = readGen (rsgenEffect n s) j := by
  have hgen : (encodeEffect n s).gen = (encodedBuffer n s).gen := rfl
  rw [readGen, readGen, hgen, encodedBuffer_frame]

theorem readRem_encodeEffect (n : Byte) (s : State) (j : Nat) :
    readRem (encodeEffect n s) j = readRem (encodedBuffer n s) j := rfl

theorem readCw_encodeEffect (n : Byte) (s : State) (i : Nat) :
    readCw (encodeEffect n s) i = readCw (encodedBuffer n s) i := rfl

section
variable {s s' : State} (h : SameInputs s s')
include h

theorem SameInputs.cwBits : cwBits s = cwBits s' := congrArg (8 * BitVec.toNat ·) h.cwlen

theorem SameInputs.placedBit (k : Nat) : placedBit s k = placedBit s' k := by
  unfold Machine.placedBit
  rw [← h.cwBits]
  split
  · next hk =>
    unfold Machine.cwBits at hk
    unfold cwbit
    rw [h.cw _ (by omega)]
  · rfl

theorem SameInputs.mbuildEffect : SameInputs (mbuildEffect s) (mbuildEffect s') :=
  ⟨h.version, h.eclbits, h.list, h.cwlen, h.cw⟩

/-- The placer, the mask and the strips, on two matrices that agree. -/
theorem SameInputs.drawn (hmsize : s.msize = s'.msize) (hmod : AgreeOn s.msize.toNat s.mod s'.mod)
    (hrsv : AgreeOn s.msize.toNat s.rsv s'.rsv) :
    (traverse s).k = (traverse s').k ∧ AgreeOn s.msize.toNat (drawn s).mod (drawn s').mod := by
  have hread : ∀ r < s.msize.toNat, ∀ c < s.msize.toNat,
      readRsv s.rsv r c = readRsv s'.rsv r c := fun _ hr _ hc => hrsv.readRsv hr hc
  obtain ⟨hk, hplaced⟩ := traverse_related hmsize (writeStable_agreeOn _ _) h.placedBit hread hmod
  have hmasked := maskEffect_related (s := placeEffect s) (s' := placeEffect s') hmsize
    (writeStable_agreeOn _ _) (fun _ _ hg _ hr _ hc => hg.readMod hr hc) hread hplaced
  exact ⟨hk, fmtwrEffect_related (s := maskEffect (placeEffect s))
    (s' := maskEffect (placeEffect s')) hmsize h.eclbits (le_max_left 9 _) (le_max_right _ _)
    (writeStable_agreeOn _ _) hmasked⟩

end

/-- Two states agree on everything ENCODE n writes, for a matrix of side `size` (R208). -/
structure SameSymbol (n : Byte) (size : Nat) (t t' : State) : Prop where
  msize : t.msize = t'.msize
  fmt : t.fmt = t'.fmt
  plcells : t.plcells = t'.plcells
  cwlen : t.cwlen = t'.cwlen
  ndata : t.ndata = t'.ndata
  nec : t.nec = t'.nec
  status : { t.status with err := .ok } = { t'.status with err := .ok }
  gen : ∀ j ≤ n.toNat, readGen t j = readGen t' j
  rem : ∀ j < n.toNat, readRem t j = readRem t' j
  cw : ∀ i < t.cwlen.toNat, readCw t i = readCw t' i
  mod : AgreeOn size t.mod t'.mod
  rsv : AgreeOn size t.rsv t'.rsv

section
variable {n : Byte} {s s' : State} (h : SameInputs s s') (ht : SameTables s s')
include h

theorem SameInputs.registers : (encodeEffect n s).msize = (encodeEffect n s').msize ∧
    (encodeEffect n s).fmt = (encodeEffect n s').fmt ∧
    (encodeEffect n s).cwlen = (encodeEffect n s').cwlen ∧
    (encodeEffect n s).ndata = (encodeEffect n s').ndata ∧
    (encodeEffect n s).nec = (encodeEffect n s').nec := by
  obtain ⟨_, _, _, _, _, _, hframe⟩ := encodeEffect_frame n s
  obtain ⟨_, _, _, _, _, _, hframe'⟩ := encodeEffect_frame n s'
  rw [hframe, hframe']
  simp only [h.version, h.eclbits, h.cwlen, and_self]

variable (hready : encodeReady n s) (hv : s.version.toNat ≤ 10)
include ht hready hv

/-- ENCODE's placer counts the same free cells in both, and its matrices agree. -/
theorem SameInputs.matrix :
    (traverse (Machine.mbuildEffect (Machine.encodedBuffer n s))).k =
        (traverse (Machine.mbuildEffect (Machine.encodedBuffer n s'))).k ∧
      AgreeOn (sideOf s) (encodeEffect n s).mod (encodeEffect n s').mod ∧
      AgreeOn (sideOf s) (encodeEffect n s).rsv (encodeEffect n s').rsv := by
  have hlegal : alignLegal (Machine.encodedBuffer n s) :=
    not_not.1 (accepted_mbuild_of_ready hready).arg
  have hbuffer := h.encodedBuffer ht hready
  have hversion : (Machine.encodedBuffer n s).version = s.version := by rw [encodedBuffer_frame]
  have hside : (Machine.mbuildEffect (Machine.encodedBuffer n s)).msize.toNat = sideOf s := by
    rw [toNat_msize_mbuildEffect (hversion ▸ hv), sideOf, hversion, sideOf]
  obtain ⟨hmod, hrsv⟩ := mbuildEffect_agreeOn hbuffer.version (fun _ => hbuffer.list) hlegal
  rw [← toNat_msize_mbuildEffect (hversion ▸ hv)] at hmod hrsv
  obtain ⟨hk, hdrawn⟩ := hbuffer.mbuildEffect.drawn
    (congrArg (fun v : BitVec 4 => BitVec.ofNat 6 (Config.SIZE v.toNat)) hbuffer.version) hmod hrsv
  rw [encodeEffect_eq, encodeEffect_eq, rsv_drawn, rsv_drawn, ← hside]
  exact ⟨hk, hdrawn, hrsv⟩

/-- The stages agree one after the other, each on what the next one reads. -/
theorem SameInputs.encodeEffect (hready' : encodeReady n s') :
    SameSymbol n (sideOf s) (encodeEffect n s) (encodeEffect n s') := by
  have hbuffer := h.encodedBuffer ht hready
  obtain ⟨hk, hmod, hrsv⟩ := h.matrix ht hready hv
  obtain ⟨hmsize, hfmt, hcwlen, hndata, hnec⟩ := h.registers (n := n)
  refine ⟨hmsize, hfmt, ?_, hcwlen, hndata, hnec, ?_, fun j hj => ?_, fun j hj => ?_, ?_, hmod,
    hrsv⟩
  · rw [encodeEffect_eq, encodeEffect_eq, plcells_drawn, plcells_drawn, hk]
  · rw [status_encodeEffect hready, status_encodeEffect hready', hk, hbuffer.mbuildEffect.cwBits]
  · rw [readGen_encodeEffect, readGen_encodeEffect, ht.readGen_rsgenEffect hj]
  · rw [readRem_encodeEffect, readRem_encodeEffect, h.readRem_encodedBuffer ht hj]
  · exact hbuffer.cw

end

/-- Settles O56: the stages of both runs agree on all they write. -/
theorem encodeIsDeterministic : Obligations.EncodeIsDeterministic := by
  intro n s s' hready hready' hversion ht ht' hv hecl hcnt halign hcwlen hcw
  obtain ⟨-, -, hle⟩ := hversion
  have h : SameInputs s s' := ⟨hv, hecl, alignList_congr hcnt halign, hcwlen, hcw⟩
  have hsymbol := h.encodeEffect (sameTables_of_tabled ht ht') hready hle hready'
  refine ⟨_, _, exec_encode hready, exec_encode hready', ?_⟩
  generalize encodeEffect n s = t, encodeEffect n s' = t' at hsymbol ⊢
  exact ⟨rfl, rfl, hsymbol.msize, hsymbol.fmt, hsymbol.plcells, hsymbol.cwlen, hsymbol.ndata,
    hsymbol.nec, hsymbol.status, hsymbol.gen, hsymbol.rem, hsymbol.cw,
    fun r hr c hc => ⟨hsymbol.mod r hr c hc, hsymbol.rsv r hr c hc⟩⟩

end Sys2Proof.Machine
end

section
/-!
SUPPORT. Errors (spec/60_exceptions.md R212, R213, R215).
-/

namespace Sys2Proof.Machine

open Sys2Proof.Claims

/-- Settles O9: the two outcomes of `exec_outcome`; a command that does not fail answers with data. -/
theorem failureHasNoEffect : Obligations.FailureHasNoEffect := by
  intro i s t h
  rcases exec_outcome h with ⟨e, he, -, -, ht⟩ | ⟨d, ht⟩
  · exact .inr ⟨e, he, ht⟩
  · exact .inl ⟨d, congrArg State.responses ht⟩

/-- Settles O10: an illegal word as in O6, the checks of `exec_eq` in the order of R213, and a command
that passes them all succeeds. -/
theorem errorTableIsComplete : Obligations.ErrorTableIsComplete := by
  refine ⟨stepAnswersIllegalWord, fun i s =>
    ⟨exec_fails_seq, exec_fails_arg, exec_fails_cap, fun hseq harg hcap => ?_⟩⟩
  exact ⟨_, dataOf i s, exec_succeeds ⟨hseq, harg, hcap⟩, rfl⟩

end Sys2Proof.Machine
end

section
/-!
SUPPORT. The reset state (spec/70_reset_and_hazards.md R231).
-/

namespace Sys2Proof.Machine

open Sys2Proof.Claims

theorem readReg_reset_scalar {n : Nat} (hn : n < 10) : readReg State.reset n = some 0#16 := by
  interval_cases n <;> rfl

theorem readReg_reset_align {k : Nat} (hk : k < 7) :
    readReg State.reset (16 + k) = some 0#16 := by
  interval_cases k <;> rfl

/-- Settles O17: `State.reset` is its own restart, and the invariants hold after every restart; those
on tables, generator and matrix speak only of set flags. -/
theorem resetStateIsGood : Obligations.ResetStateIsGood :=
  ⟨rfl, rfl, fun _ => readReg_reset_scalar, fun _ => readReg_reset_align,
    registersLegal_restart .reset, flagsConsistent_restart .reset, canonical_restart .reset,
    bounded_restart .reset, written_restart .reset, ⟨Bool.noConfusion, Bool.noConfusion⟩,
    Bool.noConfusion, Bool.noConfusion⟩

end Sys2Proof.Machine
end
